-- ==== Sys2Proof/Word.lean ====
section
/-! DEFINITION. The word types of the BEN Codec Block: what the spec treats as bits (00_scope.md R7, R10). -/

namespace Sys2Proof

/-- A 32-bit register value (R7: REG_WIDTH). -/
abbrev Word := BitVec 32

/-- One byte of a stream. -/
abbrev Byte := BitVec 8

/-- A 16-bit unsigned label, run value or run length (R7). -/
abbrev Half := BitVec 16

/-- A run (R15): `length` consecutive equal labels `value`, both 16-bit unsigned (R7). -/
structure Run where
  value : Half
  length : Half
deriving DecidableEq, Repr

end Sys2Proof
end

