-- ==== Sys2Proof/Config.lean ====
section
/-! DEFINITION. What an implementation or the platform fixes (00_scope.md R8), and the values the spec leaves free. -/

namespace Sys2Proof

/-- The parameters left open by R8. `inDepth`, `outDepth` and `runBufDepth` are readable by the host (R37). `base` is
the platform address of register offset 0x00 (R60). `byteLanes` is the bus byte lane that carries register bits 7:0
(R66); no rule of the block depends on it (R8). -/
structure Params where
  inDepth : Nat
  outDepth : Nat
  runBufDepth : Nat
  base : Nat
  byteLanes : Nat
deriving DecidableEq, Repr

/-- `IN_DEPTH - 1` (R8: an integer ≥ 1; DEDUCED upper end: readable whole in a 32-bit register, R37; log 2). -/
opaque Config.inDepthLessOne : Fin 4294967295

/-- `OUT_DEPTH - 1` (R8; same upper end, log 2). -/
opaque Config.outDepthLessOne : Fin 4294967295

/-- `RUN_BUF_DEPTH - 1` (R8: 1 to 2^32 − 1). -/
opaque Config.runBufDepthLessOne : Fin 4294967295

/-- `BASE` (R8): any address the platform assigns. -/
opaque Config.base : Nat

/-- `BYTE_LANES` (R8): any mapping the platform fixes. -/
opaque Config.byteLanes : Nat

/-- The parameters of this platform's block. No value of them is known. -/
def Config.params : Params where
  inDepth := Config.inDepthLessOne.val + 1
  outDepth := Config.outDepthLessOne.val + 1
  runBufDepth := Config.runBufDepthLessOne.val + 1
  base := Config.base
  byteLanes := Config.byteLanes

/-- Free value (log 4, DESIGN CHOICE of form): IN_EOF after a CTRL write that both sets it (bit 2) and clears it
(bit 3) while the engine is not BUSY. R23 lets both effects take place in one step and does not say which value is left.
The argument is the number of free values used before. -/
opaque Config.eofSetAndCleared : Nat → Bool

/-- `ID` (R22): the constant every read of offset 0x00 returns. -/
def Config.idValue : Word := 0x42454E31

end Sys2Proof
end

