-- ==== Sys2Proof/Syntax.lean ====
section
/-! DEFINITION. The commands of the opcode map (30_encoding.md R81), the register names (10_state.md R21), and the
host's accesses (20_memory.md R60). -/

namespace Sys2Proof

/-- One constructor per row of the opcode map (R81). A command has no operand fields (R80, R83): its operands are the
registers latched at acceptance. -/
inductive Instr where
  | nop
  | encMagic
  | chkMagic
  | copyMagic
  | rleEnc
  | rleDec
  | width
  | pack
  | unpack
  | encBlock
  | decBlock
  | runsToBen32
  | ben32ToRuns
  | encBen32
  | blockToBen32
  | ben32ToBlock
deriving DecidableEq, Repr

/-- The registers of the register map (R21). `reserved` stands for every offset 0x48 to 0xFC (R38). -/
inductive Reg where
  | id
  | ctrl
  | cmd
  | status
  | valueBits
  | lengthBits
  | byteLength
  | count
  | runCount
  | labelCount
  | blockCount
  | inData
  | outData
  | inLevel
  | outLevel
  | inDepth
  | outDepth
  | runBufDepth
  | reserved
deriving DecidableEq, Repr

/-- A host access (R13): `MemRead(addr, bytes)` or `MemWrite(addr, bytes, v)`. `addr` is the platform address, BASE
plus the register offset (R60, R96). `bytes` is the access width; the interface has only 4 (R67). -/
inductive Access where
  | read (addr bytes : Nat)
  | write (addr bytes : Nat) (v : Word)
deriving DecidableEq, Repr

/-- Whose atomic step is next in the interleaving (R73): a host access, one engine step, or the reset input (R290). -/
inductive Turn where
  | engine
  | access (a : Access)
  | reset
deriving DecidableEq, Repr

end Sys2Proof
end

