-- ==== Sys2Proof/WellFormed.lean ====
section
/-! DEFINITION. What is well formed: commands, parameters (00_scope.md R8), host accesses (20_memory.md R67). -/

namespace Sys2Proof

/-- A command word has no operand field (R80, R83), so every term of `Instr` is well formed. -/
def Instr.wellFormed : Instr → Bool
  | .nop => true
  | .encMagic => true
  | .chkMagic => true
  | .copyMagic => true
  | .rleEnc => true
  | .rleDec => true
  | .width => true
  | .pack => true
  | .unpack => true
  | .encBlock => true
  | .decBlock => true
  | .runsToBen32 => true
  | .ben32ToRuns => true
  | .encBen32 => true
  | .blockToBen32 => true
  | .ben32ToBlock => true

/-- The legal values of the parameters (R8). The upper ends of IN_DEPTH and OUT_DEPTH are DEDUCED: a 32-bit register
reads each (R37; log 2). -/
def Params.wellFormed (p : Params) : Bool :=
  decide (1 ≤ p.inDepth) && decide (p.inDepth < 2 ^ 32) &&
  decide (1 ≤ p.outDepth) && decide (p.outDepth < 2 ^ 32) &&
  decide (1 ≤ p.runBufDepth) && decide (p.runBufDepth < 2 ^ 32)

/-- Why a host access is outside the block's interface (R67, R60). -/
inductive AccessProblem where
  | wrongWidth
  | outsideSpace
  | misaligned
deriving DecidableEq, Repr

/-- The address and the width of an access. -/
def Access.addr : Access → Nat
  | .read a _ => a
  | .write a _ _ => a

def Access.bytes : Access → Nat
  | .read _ n => n
  | .write _ n _ => n

/-- R67: an access is 32 bits wide, inside the 256 bytes at BASE (R60), at an offset that is a multiple of 4. -/
def Access.problem (base : Nat) (a : Access) : Option AccessProblem :=
  if a.bytes ≠ 4 then some .wrongWidth
  else if a.addr < base ∨ base + 256 ≤ a.addr then some .outsideSpace
  else if (a.addr - base) % 4 ≠ 0 then some .misaligned
  else none

def Access.wellFormed (base : Nat) (a : Access) : Bool := (a.problem base).isNone

end Sys2Proof
end

