-- ==== Sys2Proof/Decode.lean ====
section
/-! DEFINITION. The command word CMD32 (30_encoding.md R80 to R82): decoder, encoder, and the host's `decodeTableWord`. -/

namespace Sys2Proof

/-- OPCODE, bits 7:0 of the command word (R80). -/
def opcodeField (w : Word) : Byte := w.extractLsb' 0 8

/-- RSVD, bits 31:8 of the command word (R80). -/
def rsvdField (w : Word) : BitVec 24 := w.extractLsb' 8 24

/-- A command word from its two fields (R80). -/
def commandWord (rsvd : BitVec 24) (op : Byte) : Word := rsvd ++ op

/-- Why a command word is illegal (R82). -/
inductive Reject where
  | reservedBits
  | unassignedOpcode
deriving DecidableEq, Repr

/-- The command an OPCODE selects (R81); `none` for the unassigned ones (R82). -/
def opcodeInstr (op : Byte) : Option Instr :=
  match op.toNat with
  | 0x00 => some .nop
  | 0x01 => some .encMagic
  | 0x02 => some .chkMagic
  | 0x03 => some .copyMagic
  | 0x10 => some .rleEnc
  | 0x11 => some .rleDec
  | 0x20 => some .width
  | 0x21 => some .pack
  | 0x22 => some .unpack
  | 0x30 => some .encBlock
  | 0x31 => some .decBlock
  | 0x40 => some .runsToBen32
  | 0x41 => some .ben32ToRuns
  | 0x42 => some .encBen32
  | 0x43 => some .blockToBen32
  | 0x44 => some .ben32ToBlock
  | _ => none

/-- R80 to R82: RSVD must be 0 and OPCODE assigned; any other word is illegal, rejected by name. -/
def decode (w : Word) : Except Reject Instr :=
  if rsvdField w ≠ 0 then .error .reservedBits
  else
    match opcodeInstr (opcodeField w) with
    | some i => .ok i
    | none => .error .unassignedOpcode

/-- The OPCODE of each command (R81). -/
def opcode : Instr → Byte
  | .nop => 0x00
  | .encMagic => 0x01
  | .chkMagic => 0x02
  | .copyMagic => 0x03
  | .rleEnc => 0x10
  | .rleDec => 0x11
  | .width => 0x20
  | .pack => 0x21
  | .unpack => 0x22
  | .encBlock => 0x30
  | .decBlock => 0x31
  | .runsToBen32 => 0x40
  | .ben32ToRuns => 0x41
  | .encBen32 => 0x42
  | .blockToBen32 => 0x43
  | .ben32ToBlock => 0x44

/-- R81: the command word is the opcode zero-extended to 32 bits. -/
def encode (i : Instr) : Word := commandWord 0 (opcode i)

/-- What the decoder reads from a table word of `nbits` bits: the command word, the bits above `nbits` zero. A register
has no byte order (R66), so the word is given to the decoder as one 32-bit value; a word that does not fit 32 bits is no
command word. -/
def decodeTableWord (nbits w : Nat) : Option Instr :=
  if w % 2 ^ nbits < 2 ^ 32 then
    match decode (BitVec.ofNat 32 (w % 2 ^ nbits)) with
    | .ok i => some i
    | .error _ => none
  else none

end Sys2Proof
end

