-- ==== Sys2Proof/Machine/State.lean ====
section
/-! DEFINITION. The state of the block (10_state.md R49) as plain data, its reset value (70_reset_and_hazards.md R290),
and the reasons a step can stop. -/

namespace Sys2Proof.Machine

open Sys2Proof

/-- The error codes of R261. -/
inductive ErrorCode where
  | illegalCommand
  | formatError
  | truncatedStream
  | widthError
  | payloadError
  | runOverflow
  | fieldOverflow
  | zeroLengthRun
  | runBufferFull
  | lengthOverflow
  | countOverflow
deriving DecidableEq, Repr

/-- STATUS (R25). Bits 7:5 and 31:16 are reserved and read 0, so only the defined fields are stored. -/
structure Status where
  busy : Bool
  done : Bool
  err : Bool
  atEnd : Bool
  ovr : Bool
  errCode : Byte
deriving DecidableEq, Repr

/-- STATUS = 0x00000000. -/
def Status.zero : Status := ⟨false, false, false, false, false, 0⟩

/-- The engine state `E` (R45). -/
inductive Engine where
  | idle
  | busyInput
  | busyOutput
  | error
deriving DecidableEq, Repr

/-- The latched command state `L` (R46, R122). -/
structure Latch where
  op : Byte
  rsvd : BitVec 24
  vb : Byte
  lb : Byte
  bl : Word
  count : Word
  strict : Bool
deriving DecidableEq, Repr

def Latch.zero : Latch := ⟨0, 0, 0, 0, 0, 0, false⟩

/-- The register updates of `complete(updates)` (R128, R139); `none` is the table's dash. -/
structure Updates where
  valueBits : Option Byte := none
  lengthBits : Option Byte := none
  byteLength : Option Word := none
  runCount : Option Word := none
  labelCount : Option Word := none
  block : Bool := false
deriving DecidableEq, Repr

/-- What the output phase writes for each run of the run buffer, and after the last one: nothing, its run record (R85),
its labels (R84), its packed fields and then the flush (R174), or its Ben32Record and then the sentinel (R230). -/
inductive OutForm where
  | nothing
  | records
  | labels
  | packed (vb lb : Nat)
  | ben32
deriving DecidableEq, Repr

/-- One item of the output phase: `OutWrite` of a byte (R125), the packer's `push(x, w)` or its `flush()` (R174). -/
inductive Item where
  | byte (b : Byte)
  | push (x : Half) (w : Nat)
  | flush
deriving DecidableEq, Repr

/-- What the input phase leaves for the output phase (R126): the runs for the run buffer, the bytes written first, the
form of the runs, and the updates of the completion. -/
structure Plan where
  runs : List Run
  lead : List Byte
  form : OutForm
  upd : Updates
deriving DecidableEq, Repr

/-- The position inside the output phase: the items of the current `OutWriteSeq` not yet done, the form, the index of the
next run of the run buffer, whether the closing items were already taken, and the completion's updates. -/
structure Output where
  items : List Item
  form : OutForm
  next : Nat
  closed : Bool
  upd : Updates
deriving DecidableEq, Repr

/-- The position inside the reading of a payload (R178, R179): the widths and the byteLength, how many payload bytes are
still to be read, a value field taken whose length field is still missing, the runs found, whether the stop rule (R176)
has fired, and the padding seen since then (how many bits, and whether one of them is 1). -/
structure Payload where
  vb : Byte
  lb : Byte
  bl : Word
  left : Nat
  held : Option Half
  runs : List Run
  stopped : Bool
  padBits : Nat
  padOne : Bool
deriving DecidableEq, Repr

/-- The engine's position inside the running command's rule, with the rule's local variables (R49): no command; a command
accepted and not begun; inside `InReadN` of a command with a fixed amount of input; inside the header or the payload of
a BEN block (R202); inside a ben32 block, with the bytes of the current word and the runs found (R231); in the output
phase. -/
inductive Pos where
  | none
  | start
  | bytes (got : List Byte)
  | header (got : List Byte)
  | payload (p : Payload)
  | words (part : List Byte) (runs : List Run)
  | writing (o : Output)
deriving DecidableEq, Repr

/-- The whole state of the block (R49), the platform's parameters (R8), and what stands outside the block: the turns
still to be taken (R73) and the values the host's reads returned. -/
structure State where
  /-- R8, R37: fixed for the life of the block. -/
  params : Params
  /-- CTRL.STRICT (R23). -/
  strict : Bool
  /-- The end-of-input flag, CTRL bit 2 (R42). -/
  inEof : Bool
  /-- CMD (R24). -/
  cmd : Word
  /-- STATUS (R25). -/
  status : Status
  /-- VALUE_BITS bits 7:0 (R26). -/
  valueBits : Byte
  /-- LENGTH_BITS bits 7:0 (R27). -/
  lengthBits : Byte
  /-- BYTE_LENGTH (R28). -/
  byteLength : Word
  /-- COUNT (R29). -/
  count : Word
  /-- RUN_COUNT (R30). -/
  runCount : Word
  /-- LABEL_COUNT (R31). -/
  labelCount : Word
  /-- BLOCK_COUNT (R32). -/
  blockCount : Word
  /-- The IN FIFO, head first (R40). -/
  inq : List Byte
  /-- The OUT FIFO, head first (R41). -/
  outq : List Byte
  /-- The run buffer (R43). -/
  runBuf : List Run
  /-- ACC, the bit accumulator (R44). -/
  acc : BitVec 23
  /-- ACC_N, its number of valid bits (R44). -/
  accN : Nat
  /-- The engine state `E` (R45). -/
  eng : Engine
  /-- The latched command state `L` (R46). -/
  latch : Latch
  /-- The engine's position inside the running command (R49). -/
  pos : Pos
  /-- The model's own (log 1): the turns still to be taken, next first. -/
  turns : List Turn
  /-- The model's own (log 10): the values the host's reads returned, oldest first. -/
  reads : List Word
  /-- The model's own (log 4): how many free values were used. -/
  freeCount : Nat
deriving DecidableEq, Repr

/-- The block right after reset (R290), for given parameters. -/
def State.resetOf (p : Params) : State where
  params := p
  strict := true
  inEof := false
  cmd := 0
  status := Status.zero
  valueBits := 0
  lengthBits := 0
  byteLength := 0
  count := 0
  runCount := 0
  labelCount := 0
  blockCount := 0
  inq := []
  outq := []
  runBuf := []
  acc := 0
  accN := 0
  eng := .idle
  latch := Latch.zero
  pos := .none
  turns := []
  reads := []
  freeCount := 0

/-- The block right after reset (R290), with this platform's parameters. -/
def State.reset : State := State.resetOf Config.params

/-- Why the model stops with a fault. The block itself has none: R260 makes command errors states, R281 lets no host
access fail. -/
inductive Fault where
  /-- Raised by a command's meaning when the engine is BUSY at a position that this command's rule does not have. No run
  reaches such a state (log 9). Safe: nothing follows from it. -/
  | positionMismatch
deriving DecidableEq, Repr

/-- Why the model gives an access or a command no meaning. -/
inductive Refusal where
  /-- Raised by an arm of `exec` whose command is not modelled yet. Safe. -/
  | notModelled (mnemonic : String)
  /-- Raised by a host turn whose access is outside the block's interface (R67: the model refuses it). Safe. -/
  | badAccess (why : AccessProblem)
deriving DecidableEq, Repr

/-- The outcome of one step of this machine. -/
abbrev Result := Host.Outcome State Fault Refusal

end Sys2Proof.Machine
end

