-- ==== Sys2Proof/Machine/Codec.lean ====
section
/-! DEFINITION. The codec's pure functions: run-length transform (41_run_length.md R150, R151), widths and payload
length (42_bit_packer.md R170 to R172), packing and unpacking (R173, R175 to R178), block and ben32 bytes
(43_block_codec.md R200, 44_ben32.md R230), and the stream forms (30_encoding.md R84 to R89). -/

namespace Sys2Proof.Machine

open Sys2Proof

/-! ### Run-length transform -/

/-- The scan of R150 with the open run `(cur, len)`. Lengths are unbounded here. -/
def rleScan (cur : Half) (len : Nat) : List Half → List (Half × Nat)
  | [] => [(cur, len)]
  | x :: xs => if x = cur then rleScan cur (len + 1) xs else (cur, len) :: rleScan x 1 xs

/-- `rle_encode(xs)` (R150). -/
def rleEncode : List Half → List (Half × Nat)
  | [] => []
  | x :: xs => rleScan x 1 xs

/-- `rle_decode(runs)` (R151) on runs with unbounded lengths. -/
def rleExpand (runs : List (Half × Nat)) : List Half := runs.flatMap fun r => List.replicate r.2 r.1

/-- `rle_decode(runs)` (R151). -/
def rleDecode (runs : List Run) : List Half := runs.flatMap fun r => List.replicate r.length.toNat r.value

/-- The run `(v, l)` in the 16-bit fields of R7; used only where `l ≤ 65535`. -/
def toRun (r : Half × Nat) : Run := ⟨r.1, BitVec.ofNat 16 r.2⟩

/-- The sum of the run lengths: the number of labels the runs expand to. -/
def totalLength (runs : List Run) : Nat := (runs.map fun r => r.length.toNat).sum

/-- Maximal runs (R15): no two adjacent runs have the same value. -/
def maximalRuns : List Run → Bool
  | [] => true
  | [_] => true
  | r :: q :: rest => r.value != q.value && maximalRuns (q :: rest)

/-! ### Widths -/

/-- `bitsNeeded(x)` (R170): the number of binary digits of `x`, 0 for 0. -/
def bitsNeeded (x : Nat) : Nat := if x = 0 then 0 else Nat.log2 x + 1

/-- The largest of a list of numbers, 0 for none. -/
def maxOf : List Nat → Nat
  | [] => 0
  | x :: xs => max x (maxOf xs)

/-- `widths(runs)` (R171); `(1, 1)` for no runs. -/
def widths : List Run → Nat × Nat
  | [] => (1, 1)
  | r :: rs =>
    (max 1 (bitsNeeded (maxOf ((r :: rs).map fun q => q.value.toNat))),
      bitsNeeded (maxOf ((r :: rs).map fun q => q.length.toNat)))

/-- `ceil_div(a, b)` (R9). -/
def ceilDiv (a b : Nat) : Nat := (a + b - 1) / b

/-- `byteLen(n, vb, lb)` (R172). -/
def byteLen (n vb lb : Nat) : Nat := ceilDiv (n * (vb + lb)) 8

/-! ### Bit strings (R11) -/

/-- `bits_w(x)`, most significant bit first (R11). -/
def bitsOf : Nat → Nat → List Bool
  | 0, _ => []
  | w + 1, x => x.testBit w :: bitsOf w x

/-- The number a bit string spells, MSB first (R11: `val`). -/
def valOf (bs : List Bool) : Nat := bs.foldl (fun n b => 2 * n + b.toNat) 0

/-- The bit string of a byte sequence (R11). -/
def bitString (P : List Byte) : List Bool := P.flatMap fun b => bitsOf 8 b.toNat

/-- The bytes of a bit string, a partial last byte zero-padded in its low bits (R173). -/
def bytesOf : List Bool → List Byte
  | a :: b :: c :: d :: e :: f :: g :: h :: rest => BitVec.ofNat 8 (valOf [a, b, c, d, e, f, g, h]) :: bytesOf rest
  | [] => []
  | short => [BitVec.ofNat 8 (valOf (short ++ List.replicate (8 - short.length) false))]

/-! ### Packing and unpacking -/

/-- The bit string `S` of R173: each run's value field, then its length field. -/
def packBits (vb lb : Nat) (runs : List Run) : List Bool :=
  runs.flatMap fun r => bitsOf vb r.value.toNat ++ bitsOf lb r.length.toNat

/-- `pack(runs, vb, lb)` (R173). -/
def pack (runs : List Run) (vb lb : Nat) : List Byte := bytesOf (packBits vb lb runs)

/-- `CheckWidths(vb, lb)` (R175): both widths are 1 to 16. -/
def widthsLegal (vb lb : Nat) : Bool := decide (1 ≤ vb) && decide (vb ≤ 16) && decide (1 ≤ lb) && decide (lb ≤ 16)

/-- The loop of `parsePairs` (R176) on the bits still unread. Each turn takes `vb + lb` bits; the first argument bounds
the number of turns. Answers the runs and the bits from the stop position on. -/
def parseLoop (vb lb : Nat) : Nat → List Bool → List Run × List Bool
  | 0, S => ([], S)
  | n + 1, S =>
    if S.length < vb + lb then ([], S)
    else if valOf ((S.drop vb).take lb) = 0 then ([], S)
    else
      let r : Run := ⟨BitVec.ofNat 16 (valOf (S.take vb)), BitVec.ofNat 16 (valOf ((S.drop vb).take lb))⟩
      let (rs, rest) := parseLoop vb lb n (S.drop (vb + lb))
      (r :: rs, rest)

/-- `parsePairs(P, vb, lb)` (R176): the runs, and the bits `S[pos .. T-1]` after the stop position. -/
def parsePairs (P : List Byte) (vb lb : Nat) : List Run × List Bool :=
  parseLoop vb lb (bitString P).length (bitString P)

/-- The strict checks of R177 in their order, on the runs, the number of bits after the stop position, and whether one of
them is 1. -/
def strictCheck (runs : List Run) (vb lb padBits : Nat) (padOne : Bool) : Option ErrorCode :=
  if padOne then some .payloadError
  else if 8 ≤ padBits then some .payloadError
  else if maximalRuns runs = false then some .payloadError
  else if widths runs ≠ (vb, lb) then some .widthError
  else none

/-- `unpack(P, vb, lb, strict)` (R178). -/
def unpack (P : List Byte) (vb lb : Nat) (strict : Bool) : Except ErrorCode (List Run) :=
  if widthsLegal vb lb = false then .error .widthError
  else
    let (runs, rest) := parsePairs P vb lb
    if strict then
      match strictCheck runs vb lb rest.length (rest.any id) with
      | some e => .error e
      | none => .ok runs
    else .ok runs

/-! ### Stream forms -/

/-- Byte 0 is bits 15:8, byte 1 is bits 7:0 (R84): big-endian (R64). -/
def labelBytes (x : Half) : List Byte := [x.extractLsb' 8 8, x.extractLsb' 0 8]

/-- `recBytes(v, l)` (R85): the big-endian word `(v << 16) | l`. -/
def recBytes (r : Run) : List Byte := labelBytes r.value ++ labelBytes r.length

/-- A 32-bit value, most significant byte first (R64). -/
def wordBytes (x : Word) : List Byte := [x.extractLsb' 24 8, x.extractLsb' 16 8, x.extractLsb' 8 8, x.extractLsb' 0 8]

/-- A 16-bit value from its two bytes in stream order (R152). -/
def halfOf (hi lo : Byte) : Half := hi ++ lo

/-- A 32-bit value from its four bytes in stream order (R202, R231). -/
def wordOf (a b c d : Byte) : Word := a ++ b ++ c ++ d

/-- The labels of a byte sequence (R152). -/
def labelsOf : List Byte → List Half
  | a :: b :: rest => halfOf a b :: labelsOf rest
  | _ => []

/-- The run records of a byte sequence (R154). -/
def recordsOf : List Byte → List Run
  | a :: b :: c :: d :: rest => ⟨halfOf a b, halfOf c d⟩ :: recordsOf rest
  | _ => []

/-- MAGIC (R88): the 17 ASCII bytes "STANDARD BEN FILE". -/
def magic : List Byte :=
  [0x53, 0x54, 0x41, 0x4E, 0x44, 0x41, 0x52, 0x44, 0x20, 0x42, 0x45, 0x4E, 0x20, 0x46, 0x49, 0x4C, 0x45]

/-- `hdrBytes(vb, lb, bl)` (R200, R89). -/
def hdrBytes (vb lb : Byte) (bl : Word) : List Byte := vb :: lb :: wordBytes bl

/-- `encodeBlock(runs)` (R200), where the byteLength fits its field (R201 raises LENGTH_OVERFLOW otherwise). -/
def encodeBlock (runs : List Run) : List Byte :=
  let (vb, lb) := widths runs
  hdrBytes (BitVec.ofNat 8 vb) (BitVec.ofNat 8 lb) (BitVec.ofNat 32 (byteLen runs.length vb lb)) ++ pack runs vb lb

/-- The sentinel of a Ben32Block (R87). -/
def sentinel : List Byte := [0, 0, 0, 0]

/-- `ben32Block(runs)` (R230). -/
def ben32Block (runs : List Run) : List Byte := runs.flatMap recBytes ++ sentinel

/-- The largest value of a 32-bit field or counter. -/
def maxWord : Nat := 2 ^ 32 - 1

end Sys2Proof.Machine
end

