-- ==== Sys2Proof/Machine/Flags.lean ====
section
/-! DEFINITION. STATUS: the code of each error (60_exceptions.md R261), what sets and clears each flag (10_state.md
R25), and the word a read returns. -/

namespace Sys2Proof.Machine

open Sys2Proof

/-- `code(E)` (R261). -/
def ErrorCode.code : ErrorCode → Byte
  | .illegalCommand => 0x01
  | .formatError => 0x02
  | .truncatedStream => 0x03
  | .widthError => 0x04
  | .payloadError => 0x05
  | .runOverflow => 0x06
  | .fieldOverflow => 0x07
  | .zeroLengthRun => 0x08
  | .runBufferFull => 0x09
  | .lengthOverflow => 0x0A
  | .countOverflow => 0x0B

/-- Command acceptance (R121): BUSY set, DONE and END cleared, the rest unchanged. -/
def Status.accept (f : Status) : Status := { f with busy := true, done := false, atEnd := false }

/-- Successful completion (R128). -/
def Status.complete (f : Status) : Status := { f with busy := false, done := true }

/-- END completion (R129). -/
def Status.completeEnd (f : Status) : Status := { f with busy := false, done := true, atEnd := true }

/-- Error entry (R273): DONE, END and OVR unchanged. -/
def Status.raise (f : Status) (e : ErrorCode) : Status := { f with busy := false, err := true, errCode := e.code }

/-- A dropped host access (R279). -/
def Status.overrun (f : Status) : Status := { f with ovr := true }

/-- A flag as a bit of a 32-bit register. -/
def flagBit (b : Bool) (i : Nat) : Word := if b then 1 <<< i else 0

/-- The word a read of STATUS returns (R25). -/
def Status.word (f : Status) : Word :=
  flagBit f.busy 0 ||| flagBit f.done 1 ||| flagBit f.err 2 ||| flagBit f.atEnd 3 ||| flagBit f.ovr 4 |||
    (f.errCode.setWidth 32 <<< 8)

/-- The word a read of CTRL returns: `STRICT | (IN_EOF << 2)` (R23). -/
def ctrlWord (strict inEof : Bool) : Word := flagBit strict 0 ||| flagBit inEof 2

end Sys2Proof.Machine
end

