-- ==== Sys2Proof/Machine/Ops.lean ====
section
/-! DEFINITION. The shared operations on the state: stream primitives (40_command_model.md R124, R125), the bit
accumulator (42_bit_packer.md R174, R179), acceptance, completion and END (R121, R122, R128, R129), error entry
(60_exceptions.md R273), and the ways out of it: abort (R133) and reset (R290). -/

namespace Sys2Proof.Machine

open Sys2Proof

/-! ### Small updates -/

def State.setPos (s : State) (p : Pos) : State := { s with pos := p }

def State.setTurns (s : State) (ts : List Turn) : State := { s with turns := ts }

/-- The host's read returned `v` (R13). -/
def State.recordRead (s : State) (v : Word) : State := { s with reads := s.reads ++ [v] }

/-- A dropped host access sets OVR (R279). -/
def State.overrun (s : State) : State := { s with status := s.status.overrun }

/-- The engine takes the head of IN; `rest` is what is left (R124). -/
def State.setIn (s : State) (rest : List Byte) : State := { s with inq := rest }

/-- `OUT <- OUT ++ [b]` (R125). -/
def State.putOut (s : State) (b : Byte) : State := { s with outq := s.outq ++ [b] }

def State.setAcc (s : State) (acc : BitVec 23) (n : Nat) : State := { s with acc := acc, accN := n }

/-! ### Exception entry and return -/

/-- Error entry (R273): taken by `raise E`, in one atomic step. OUT, IN_EOF and every register are unchanged. -/
def State.raise (s : State) (e : ErrorCode) : State :=
  { s with
    status := s.status.raise e
    inq := []
    acc := 0
    accN := 0
    runBuf := []
    eng := .error
    pos := .none }

/-- Abort (R133): the way out of ERROR that the host has (R277), in any engine state. -/
def State.abort (s : State) : State :=
  { s with
    inq := []
    outq := []
    inEof := false
    status := Status.zero
    blockCount := 0
    acc := 0
    accN := 0
    runBuf := []
    eng := .idle
    pos := .none }

/-- The reset event (R290). The parameters, the turns, the host's read values and the free-value counter stand outside
the block. -/
def State.resetEvent (s : State) : State :=
  { State.resetOf s.params with turns := s.turns, reads := s.reads, freeCount := s.freeCount }

/-! ### Lifecycle -/

/-- The operands latched at acceptance (R122). -/
def State.latched (s : State) (v : Word) : Latch where
  op := opcodeField v
  rsvd := rsvdField v
  vb := s.valueBits
  lb := s.lengthBits
  bl := s.byteLength
  count := s.count
  strict := s.strict

/-- Acceptance of the command word `v` (R121, R122). -/
def State.accept (s : State) (v : Word) : State :=
  { s with
    cmd := v
    status := s.status.accept
    latch := s.latched v
    acc := 0
    accN := 0
    runBuf := []
    eng := .busyInput
    pos := .start }

/-- The command word the engine holds (R122). -/
def Latch.word (l : Latch) : Word := commandWord l.rsvd l.op

/-- Completion (R128): the listed updates, STATUS and the engine state in one step. -/
def State.complete (s : State) (u : Updates) : State :=
  { s with
    valueBits := u.valueBits.getD s.valueBits
    lengthBits := u.lengthBits.getD s.lengthBits
    byteLength := u.byteLength.getD s.byteLength
    runCount := u.runCount.getD s.runCount
    labelCount := u.labelCount.getD s.labelCount
    blockCount := if u.block then s.blockCount + 1 else s.blockCount
    status := s.status.complete
    eng := .idle
    pos := .none }

/-- END completion (R129). -/
def State.completeEnd (s : State) : State :=
  { s with
    status := s.status.completeEnd
    inEof := false
    eng := .idle
    pos := .none }

/-- The input phase is over: BUSY.OUTPUT (R120, R126). The run buffer takes the runs, and the accumulator is empty, as
R174's first line asks (log 5). -/
def State.enterOutput (s : State) (p : Plan) : State :=
  { s with
    runBuf := p.runs
    acc := 0
    accN := 0
    eng := .busyOutput
    pos := .writing
      { items := p.lead.map Item.byte, form := p.form, next := 0, closed := false, upd := p.upd } }

/-! ### Reading IN (R124) -/

/-- One attempt of `InRead()` (R124): a byte is taken (then `onByte` goes on with it), or the end of input is seen (then
`onEof`), or the engine waits and no state changes (log 6). -/
def State.inRead (s : State) (onByte : Byte → State → State) (onEof : State → State) : State :=
  match s.inq with
  | b :: rest => onByte b (s.setIn rest)
  | [] => if s.inEof then onEof s else s

/-- `AtEnd()` (R124), which takes no byte: the input goes on (then `onMore`), it ends here (then `onEnd`), or the engine
waits. -/
def State.atEnd (s : State) (onMore onEnd : State → State) : State :=
  match s.inq with
  | _ :: _ => onMore s
  | [] => if s.inEof then onEnd s else s

/-! ### Writing OUT (R125) -/

/-- `OutWrite(b)` (R125), after which the engine goes on with `next`; on a full OUT it waits and no state changes. -/
def State.outWrite (s : State) (b : Byte) (next : State → State) : State :=
  if s.outq.length < s.params.outDepth then next (s.putOut b) else s

/-! ### The bit accumulator (R44) -/

/-- `2^n − 1`: the mask of the `n` low bits. -/
def lowMask (n : Nat) : BitVec 23 := BitVec.ofNat 23 (2 ^ n - 1)

/-- `ACC <- (ACC << w) | x ; ACC_N <- ACC_N + w` (R174). -/
def State.accPush (s : State) (x : Half) (w : Nat) : State :=
  s.setAcc ((s.acc <<< w) ||| x.setWidth 23) (s.accN + w)

/-- The oldest `w` valid bits of the accumulator as a number. -/
def accTop (acc : BitVec 23) (n w : Nat) : Half := (acc >>> (n - w)).setWidth 16

/-- The accumulator without its oldest `w` valid bits. -/
def accDrop (acc : BitVec 23) (n w : Nat) : BitVec 23 := acc &&& lowMask (n - w)

/-- `(ACC >> (ACC_N - 8)) & 0xFF` (R174): the next byte the packer emits. -/
def accByte (acc : BitVec 23) (n : Nat) : Byte := (acc >>> (n - 8)).setWidth 8

/-- `(ACC << (8 - ACC_N)) & 0xFF` (R174): the last, zero-padded byte. -/
def accFlush (acc : BitVec 23) (n : Nat) : Byte := (acc <<< (8 - n)).setWidth 8

/-! ### Unpacking on the fly (R179) -/

/-- The unpacker after the bytes read so far: the position's fields and the accumulator. -/
def Payload.begin (vb lb : Byte) (bl : Word) : Payload :=
  { vb := vb, lb := lb, bl := bl, left := bl.toNat, held := none, runs := [], stopped := false, padBits := 0,
    padOne := false }

/-- Extraction of fields while enough bits are held (R179), with the stop rule of R176: at a pair whose length field is
0, that pair and all later bits are padding. `n` bounds the number of fields taken. -/
def extractFields : Nat → Payload → BitVec 23 → Nat → Payload × BitVec 23 × Nat
  | 0, p, acc, n => (p, acc, n)
  | k + 1, p, acc, n =>
    if p.stopped then (p, acc, n)
    else
      match p.held with
      | none =>
        if p.vb.toNat ≤ n then
          extractFields k { p with held := some (accTop acc n p.vb.toNat) } (accDrop acc n p.vb.toNat) (n - p.vb.toNat)
        else (p, acc, n)
      | some v =>
        if p.lb.toNat ≤ n then
          let rest := accDrop acc n p.lb.toNat
          let left := n - p.lb.toNat
          if accTop acc n p.lb.toNat = 0 then
            ({ p with
                held := none
                stopped := true
                padBits := p.vb.toNat + p.lb.toNat + left
                padOne := v != 0 || rest != 0 }, 0, 0)
          else
            extractFields k { p with held := none, runs := p.runs ++ [⟨v, accTop acc n p.lb.toNat⟩] } rest left
        else (p, acc, n)

/-- One payload byte taken into the accumulator (R179): it is padding once the stop rule has fired; a payload whose
widths are illegal is read and not unpacked (R202 reads the whole block before R175's check). -/
def takePayloadByte (b : Byte) (p : Payload) (acc : BitVec 23) (n : Nat) : Payload × BitVec 23 × Nat :=
  if widthsLegal p.vb.toNat p.lb.toNat = false then ({ p with left := p.left - 1 }, acc, n)
  else if p.stopped then
    ({ p with left := p.left - 1, padBits := p.padBits + 8, padOne := p.padOne || b != 0 }, acc, n)
  else
    extractFields (n + 8) { p with left := p.left - 1 } ((acc <<< 8) ||| b.setWidth 23) (n + 8)

/-- The number of payload bits after the stop position (`T - pos` of R177) when the payload is read. -/
def Payload.padding (p : Payload) (n : Nat) : Nat :=
  if p.stopped then p.padBits
  else
    match p.held with
    | none => n
    | some _ => p.vb.toNat + n

/-- Whether a bit after the stop position is 1 (`S[pos .. T-1]` of R177) when the payload is read. -/
def Payload.paddingOne (p : Payload) (acc : BitVec 23) : Bool :=
  if p.stopped then p.padOne
  else
    match p.held with
    | none => acc != 0
    | some v => v != 0 || acc != 0

/-- The outcome of `unpack` (R178) when the payload is read: the checks of R175 and R177 in their order. -/
def Payload.unpacked (p : Payload) (strict : Bool) (acc : BitVec 23) (n : Nat) : Except ErrorCode (List Run) :=
  if widthsLegal p.vb.toNat p.lb.toNat = false then .error .widthError
  else if strict then
    match strictCheck p.runs p.vb.toNat p.lb.toNat (p.padding n) (p.paddingOne acc) with
    | some e => .error e
    | none => .ok p.runs
  else .ok p.runs

/-- The state after a payload byte was taken from IN. -/
def State.payloadByte (s : State) (p : Payload) (b : Byte) : State :=
  let r := takePayloadByte b p s.acc s.accN
  (s.setAcc r.2.1 r.2.2).setPos (.payload r.1)

/-! ### The output phase (R126) -/

/-- The items of one turn of the loop `for (v, l) in runs` of the output phase. -/
def runItems (f : OutForm) (r : Run) : List Item :=
  match f with
  | .nothing => []
  | .records => (recBytes r).map Item.byte
  | .labels => (List.replicate r.length.toNat (labelBytes r.value)).flatten.map Item.byte
  | .packed vb lb => [.push r.value vb, .push r.length lb]
  | .ben32 => (recBytes r).map Item.byte

/-- What follows the last run: the packer's flush (R174), the sentinel (R230), or nothing. -/
def closingItems (f : OutForm) : List Item :=
  match f with
  | .nothing => []
  | .records => []
  | .labels => []
  | .packed _ _ => [.flush]
  | .ben32 => sentinel.map Item.byte

/-- One engine step of the output phase at position `o`. While `ACC_N ≥ 8` the packer's `push` emits its next byte
(R174); otherwise the next item is done; when the items are used up the next run of the run buffer gives the next ones,
then the closing items; then the command completes (R128). -/
def State.writeStep (s : State) (o : Output) : State :=
  if 8 ≤ s.accN then
    s.outWrite (accByte s.acc s.accN) fun t => t.setAcc (accDrop s.acc s.accN 8) (s.accN - 8)
  else
    match o.items with
    | .byte b :: rest => s.outWrite b fun t => t.setPos (.writing { o with items := rest })
    | .push x w :: rest => (s.accPush x w).setPos (.writing { o with items := rest })
    | .flush :: rest =>
      if s.accN = 0 then (s.setAcc 0 0).setPos (.writing { o with items := rest })
      else
        s.outWrite (accFlush s.acc s.accN) fun t => (t.setAcc 0 0).setPos (.writing { o with items := rest })
    | [] =>
      match s.runBuf[o.next]? with
      | some r => s.setPos (.writing { o with items := runItems o.form r, next := o.next + 1 })
      | none =>
        if o.closed then s.complete o.upd
        else s.setPos (.writing { o with items := closingItems o.form, closed := true })

/-! ### The skeleton of a command (R45, R120) -/

/-- One engine step of a running command: in BUSY.INPUT the command's own input phase, in BUSY.OUTPUT the output phase;
in IDLE and ERROR the engine takes no step (R45, R276). -/
def runCommand (input : State → Result) (s : State) : Result :=
  match s.eng with
  | .idle => .next s
  | .error => .next s
  | .busyInput => input s
  | .busyOutput =>
    match s.pos with
    | .writing o => .next (s.writeStep o)
    | _ => .fault .positionMismatch

/-- The end of the input phase: the content checks' first error is raised (R274), or the output phase begins. -/
def State.conclude (s : State) (r : Except ErrorCode Plan) : State :=
  match r with
  | .error e => s.raise e
  | .ok p => s.enterOutput p

/-- The input phase of a command that reads nothing (NOP, ENC_MAGIC): the legality check only. -/
def emptyInput (plan : Plan) (s : State) : Result :=
  match s.pos with
  | .start => .next (s.enterOutput plan)
  | _ => .fault .positionMismatch

/-- The input phase of a command with a fixed amount of input: the operand check (R274 tier 1), `InReadN(n, short)`
(tier 2), then the content checks on all the bytes (tier 3). -/
def countedInput (operands : Option ErrorCode) (n : Nat) (short : ErrorCode)
    (content : List Byte → Except ErrorCode Plan) (s : State) : Result :=
  match s.pos with
  | .start =>
    match operands with
    | some e => .next (s.raise e)
    | none => .next (s.setPos (.bytes []))
  | .bytes got =>
    if got.length < n then
      .next (s.inRead (fun b t => t.setPos (.bytes (got ++ [b]))) fun t => t.raise short)
    else .next (s.conclude (content got))
  | _ => .fault .positionMismatch

/-- Reading a payload at position `p`, and its content checks once it is read (R184, R202). -/
def payloadStep (content : Payload → List Run → Except ErrorCode Plan) (s : State) (p : Payload) : State :=
  if 0 < p.left then s.inRead (fun b t => t.payloadByte p b) fun t => t.raise .truncatedStream
  else
    match p.unpacked s.latch.strict s.acc s.accN with
    | .error e => s.raise e
    | .ok runs =>
      if s.params.runBufDepth < runs.length then s.raise .runBufferFull else s.conclude (content p runs)

/-- The input phase of UNPACK (R184): `CheckWidths` on the operands, then the payload. -/
def payloadInput (content : Payload → List Run → Except ErrorCode Plan) (s : State) : Result :=
  match s.pos with
  | .start =>
    if widthsLegal s.latch.vb.toNat s.latch.lb.toNat = false then .next (s.raise .widthError)
    else .next (s.setPos (.payload (Payload.begin s.latch.vb s.latch.lb s.latch.bl)))
  | .payload p => .next (payloadStep content s p)
  | _ => .fault .positionMismatch

/-- A payload position from the 6 header bytes in stream order (R89, R202). -/
def headerPayload (h : List Byte) : Option Payload :=
  match h with
  | [a, b, c, d, e, f] => some (Payload.begin a b (wordOf c d e f))
  | _ => none

/-- The input phase of the commands that read one BEN block: `AtEnd()` or END (R129), then `ReadBenBlock()` (R202). -/
def benBlockInput (content : Payload → List Run → Except ErrorCode Plan) (s : State) : Result :=
  match s.pos with
  | .start => .next (s.atEnd (fun t => t.setPos (.header [])) fun t => t.completeEnd)
  | .header got =>
    if got.length < 6 then
      .next (s.inRead (fun b t => t.setPos (.header (got ++ [b]))) fun t => t.raise .truncatedStream)
    else
      match headerPayload got with
      | some p => .next (s.setPos (.payload p))
      | none => .fault .positionMismatch
  | .payload p => .next (payloadStep content s p)
  | _ => .fault .positionMismatch

/-- The content checks of `ReadBen32Block()` (R231), in their order. -/
def ben32Check (strict : Bool) (depth : Nat) (runs : List Run) : Option ErrorCode :=
  if runs.any fun r => r.length == 0 then some .zeroLengthRun
  else if strict && !maximalRuns runs then some .payloadError
  else if depth < runs.length then some .runBufferFull
  else none

/-- The input phase of the commands that read one ben32 block: `AtEnd()` or END (R129), then `ReadBen32Block()` (R231),
which reads whole words up to the sentinel before any check. -/
def ben32Input (content : List Run → Except ErrorCode Plan) (s : State) : Result :=
  match s.pos with
  | .start => .next (s.atEnd (fun t => t.setPos (.words [] [])) fun t => t.completeEnd)
  | .words part runs =>
    match part with
    | [a, b, c, d] =>
      if wordOf a b c d = 0 then
        match ben32Check s.latch.strict s.params.runBufDepth runs with
        | some e => .next (s.raise e)
        | none => .next (s.conclude (content runs))
      else .next (s.setPos (.words [] (runs ++ [⟨halfOf a b, halfOf c d⟩])))
    | _ =>
      if part.length < 4 then
        .next (s.inRead (fun b t => t.setPos (.words (part ++ [b]) runs)) fun t => t.raise .truncatedStream)
      else .fault .positionMismatch
  | _ => .fault .positionMismatch

end Sys2Proof.Machine
end

