-- ==== Sys2Proof/Machine/Operands.lean ====
section
/-! DEFINITION. Operands (30_encoding.md R83): how many bytes a counted command reads, the checks on the latched
operands before any input is read (60_exceptions.md R274 tier 1), and the run sequences read from IN (41_run_length.md
R153, R154). -/

namespace Sys2Proof.Machine

open Sys2Proof

/-- The bytes of `L.count` labels (R152). -/
def Latch.labelInput (l : Latch) : Nat := 2 * l.count.toNat

/-- The bytes of `L.count` run records (R154). -/
def Latch.recordInput (l : Latch) : Nat := 4 * l.count.toNat

/-- RUN_BUFFER_FULL on COUNT (R270): RLE_DEC, RUNS_TO_BEN32, and PACK after its width check. -/
def checkCount (l : Latch) (depth : Nat) : Option ErrorCode :=
  if depth < l.count.toNat then some .runBufferFull else none

/-- The operand checks of PACK (R183, R274): the widths, then the count. -/
def checkPackOperands (l : Latch) (depth : Nat) : Option ErrorCode :=
  if widthsLegal l.vb.toNat l.lb.toNat = false then some .widthError else checkCount l depth

/-- `RunsFromLabels(k)` (R153) on the label bytes read: RUN_OVERFLOW, then RUN_BUFFER_FULL. -/
def runsFromLabels (depth : Nat) (bs : List Byte) : Except ErrorCode (List Run) :=
  let runs := rleEncode (labelsOf bs)
  if runs.any fun r => decide (65535 < r.2) then .error .runOverflow
  else if depth < runs.length then .error .runBufferFull
  else .ok (runs.map toRun)

/-- Some run record has length 0 (R269). -/
def hasZeroLength (runs : List Run) : Bool := runs.any fun r => r.length == 0

/-- Some run does not fit the widths (R268): `v ≥ 2^vb` or `l ≥ 2^lb`. -/
def hasWideField (vb lb : Nat) (runs : List Run) : Bool :=
  runs.any fun r => decide (2 ^ vb ≤ r.value.toNat) || decide (2 ^ lb ≤ r.length.toNat)

/-- A count in a 32-bit register. -/
def countWord (n : Nat) : Word := BitVec.ofNat 32 n

/-- A width in an 8-bit register (R128: bits 31:8 are 0). -/
def widthByte (n : Nat) : Byte := BitVec.ofNat 8 n

end Sys2Proof.Machine
end

