-- ==== Sys2Proof/Machine/Ben32.lean ====
section
/-! DEFINITION. The Ben32Transcoder commands (44_ben32.md R232 to R236). -/

namespace Sys2Proof.Machine

open Sys2Proof

/-- RUNS_TO_BEN32 after its run records are read (R232): ZERO_LENGTH_RUN, then the Ben32Block. -/
def runsToBen32Content (l : Latch) (bs : List Byte) : Except ErrorCode Plan :=
  let runs := recordsOf bs
  if hasZeroLength runs then .error .zeroLengthRun
  else .ok { runs := runs, lead := [], form := .ben32, upd := { runCount := some l.count, block := true } }

/-- RUNS_TO_BEN32 (R232). -/
def execRunsToBen32 (s : State) : Host.Outcome State Fault Refusal :=
  runCommand
    (countedInput (checkCount s.latch s.params.runBufDepth) s.latch.recordInput .truncatedStream
      (runsToBen32Content s.latch)) s

/-- BEN32_TO_RUNS after its block is read and checked (R233): the run records. -/
def ben32ToRunsContent (runs : List Run) : Except ErrorCode Plan :=
  .ok
    { runs := runs, lead := [], form := .records,
      upd := { runCount := some (countWord runs.length), block := true } }

/-- BEN32_TO_RUNS (R233). -/
def execBen32ToRuns (s : State) : Host.Outcome State Fault Refusal := runCommand (ben32Input ben32ToRunsContent) s

/-- ENC_BEN32 after its label bytes are read (R234): the checks of R153, then the Ben32Block. -/
def encBen32Content (l : Latch) (depth : Nat) (bs : List Byte) : Except ErrorCode Plan :=
  match runsFromLabels depth bs with
  | .error e => .error e
  | .ok runs =>
    .ok
      { runs := runs, lead := [], form := .ben32,
        upd := { runCount := some (countWord runs.length), labelCount := some l.count, block := true } }

/-- ENC_BEN32 (R234). -/
def execEncBen32 (s : State) : Host.Outcome State Fault Refusal :=
  runCommand
    (countedInput none s.latch.labelInput .truncatedStream (encBen32Content s.latch s.params.runBufDepth)) s

/-- BLOCK_TO_BEN32 after its BEN block is read and checked (R235): the Ben32Block. The runs are never expanded. -/
def blockToBen32Content (p : Payload) (runs : List Run) : Except ErrorCode Plan :=
  .ok
    { runs := runs, lead := [], form := .ben32,
      upd :=
        { valueBits := some p.vb, lengthBits := some p.lb, byteLength := some p.bl,
          runCount := some (countWord runs.length), block := true } }

/-- BLOCK_TO_BEN32 (R235). -/
def execBlockToBen32 (s : State) : Host.Outcome State Fault Refusal :=
  runCommand (benBlockInput blockToBen32Content) s

/-- BEN32_TO_BLOCK after its block is read and checked (R236): LENGTH_OVERFLOW, then the BEN block with the widths of
the block's own runs. -/
def ben32ToBlockContent (runs : List Run) : Except ErrorCode Plan :=
  let w := widths runs
  let bl := byteLen runs.length w.1 w.2
  if maxWord < bl then .error .lengthOverflow
  else
    .ok
      { runs := runs, lead := hdrBytes (widthByte w.1) (widthByte w.2) (countWord bl), form := .packed w.1 w.2,
        upd :=
          { valueBits := some (widthByte w.1), lengthBits := some (widthByte w.2), byteLength := some (countWord bl),
            runCount := some (countWord runs.length), block := true } }

/-- BEN32_TO_BLOCK (R236). -/
def execBen32ToBlock (s : State) : Host.Outcome State Fault Refusal := runCommand (ben32Input ben32ToBlockContent) s

end Sys2Proof.Machine
end

