-- ==== Sys2Proof/Machine/BitPacker.lean ====
section
/-! DEFINITION. The BitPacker / BitUnpacker commands (42_bit_packer.md R182 to R184). -/

namespace Sys2Proof.Machine

open Sys2Proof

/-- WIDTH after its run records are read (R182): ZERO_LENGTH_RUN, then LENGTH_OVERFLOW. The run buffer is not used. -/
def widthContent (l : Latch) (bs : List Byte) : Except ErrorCode Plan :=
  let runs := recordsOf bs
  let w := widths runs
  let bl := byteLen l.count.toNat w.1 w.2
  if hasZeroLength runs then .error .zeroLengthRun
  else if maxWord < bl then .error .lengthOverflow
  else
    .ok
      { runs := [], lead := [], form := .nothing,
        upd :=
          { valueBits := some (widthByte w.1), lengthBits := some (widthByte w.2),
            byteLength := some (countWord bl), runCount := some l.count } }

/-- WIDTH (R182). -/
def execWidth (s : State) : Host.Outcome State Fault Refusal :=
  runCommand (countedInput none s.latch.recordInput .truncatedStream (widthContent s.latch)) s

/-- PACK after its run records are read (R183): ZERO_LENGTH_RUN, FIELD_OVERFLOW, LENGTH_OVERFLOW, then the payload. -/
def packContent (l : Latch) (bs : List Byte) : Except ErrorCode Plan :=
  let runs := recordsOf bs
  let bl := byteLen l.count.toNat l.vb.toNat l.lb.toNat
  if hasZeroLength runs then .error .zeroLengthRun
  else if hasWideField l.vb.toNat l.lb.toNat runs then .error .fieldOverflow
  else if maxWord < bl then .error .lengthOverflow
  else
    .ok
      { runs := runs, lead := [], form := .packed l.vb.toNat l.lb.toNat,
        upd := { byteLength := some (countWord bl), runCount := some l.count } }

/-- PACK (R183). -/
def execPack (s : State) : Host.Outcome State Fault Refusal :=
  runCommand
    (countedInput (checkPackOperands s.latch s.params.runBufDepth) s.latch.recordInput .truncatedStream
      (packContent s.latch)) s

/-- UNPACK after its payload is read and checked (R184): the run records. -/
def unpackContent (_ : Payload) (runs : List Run) : Except ErrorCode Plan :=
  .ok { runs := runs, lead := [], form := .records, upd := { runCount := some (countWord runs.length) } }

/-- UNPACK (R184). -/
def execUnpack (s : State) : Host.Outcome State Fault Refusal := runCommand (payloadInput unpackContent) s

end Sys2Proof.Machine
end

