-- ==== Sys2Proof/Machine/Block.lean ====
section
/-! DEFINITION. The BenBlockCodec commands (43_block_codec.md R201, R203 to R206). -/

namespace Sys2Proof.Machine

open Sys2Proof

/-- The output of ENC_MAGIC and COPY_MAGIC: the 17 bytes of R88, no register updated. -/
def magicPlan : Plan := { runs := [], lead := magic, form := .nothing, upd := {} }

/-- ENC_MAGIC (R204). -/
def execEncMagic (s : State) : Host.Outcome State Fault Refusal := runCommand (emptyInput magicPlan) s

/-- CHK_MAGIC after its 17 bytes are read (R205). -/
def chkMagicContent (bs : List Byte) : Except ErrorCode Plan :=
  if bs = magic then .ok { runs := [], lead := [], form := .nothing, upd := {} } else .error .formatError

/-- CHK_MAGIC (R205): 17 bytes; a short input is FORMAT_ERROR. -/
def execChkMagic (s : State) : Host.Outcome State Fault Refusal :=
  runCommand (countedInput none 17 .formatError chkMagicContent) s

/-- COPY_MAGIC after its 17 bytes are read (R206). -/
def copyMagicContent (bs : List Byte) : Except ErrorCode Plan :=
  if bs = magic then .ok magicPlan else .error .formatError

/-- COPY_MAGIC (R206). -/
def execCopyMagic (s : State) : Host.Outcome State Fault Refusal :=
  runCommand (countedInput none 17 .formatError copyMagicContent) s

/-- ENC_BLOCK after its label bytes are read (R201): the checks of R153, then LENGTH_OVERFLOW, then the block. -/
def encBlockContent (l : Latch) (depth : Nat) (bs : List Byte) : Except ErrorCode Plan :=
  match runsFromLabels depth bs with
  | .error e => .error e
  | .ok runs =>
    let w := widths runs
    let bl := byteLen runs.length w.1 w.2
    if maxWord < bl then .error .lengthOverflow
    else
      .ok
        { runs := runs, lead := hdrBytes (widthByte w.1) (widthByte w.2) (countWord bl), form := .packed w.1 w.2,
          upd :=
            { valueBits := some (widthByte w.1), lengthBits := some (widthByte w.2),
              byteLength := some (countWord bl), runCount := some (countWord runs.length),
              labelCount := some l.count, block := true } }

/-- ENC_BLOCK (R201). -/
def execEncBlock (s : State) : Host.Outcome State Fault Refusal :=
  runCommand
    (countedInput none s.latch.labelInput .truncatedStream (encBlockContent s.latch s.params.runBufDepth)) s

/-- DEC_BLOCK after its block is read and checked (R203): COUNT_OVERFLOW, then the labels. -/
def decBlockContent (p : Payload) (runs : List Run) : Except ErrorCode Plan :=
  if maxWord < totalLength runs then .error .countOverflow
  else
    .ok
      { runs := runs, lead := [], form := .labels,
        upd :=
          { valueBits := some p.vb, lengthBits := some p.lb, byteLength := some p.bl,
            runCount := some (countWord runs.length), labelCount := some (countWord (totalLength runs)),
            block := true } }

/-- DEC_BLOCK (R203). -/
def execDecBlock (s : State) : Host.Outcome State Fault Refusal := runCommand (benBlockInput decBlockContent) s

end Sys2Proof.Machine
end

