-- ==== Sys2Proof/Machine/Control.lean ====
section
/-! DEFINITION. The control command NOP (40_command_model.md R131). -/

namespace Sys2Proof.Machine

open Sys2Proof

/-- A completion that writes nothing and updates no register (R139, first row). -/
def nopPlan : Plan := { runs := [], lead := [], form := .nothing, upd := {} }

/-- NOP (R131): no input, no output, `complete({})`. -/
def execNop (s : State) : Host.Outcome State Fault Refusal := runCommand (emptyInput nopPlan) s

end Sys2Proof.Machine
end

