-- ==== Sys2Proof/Machine/RunLength.lean ====
section
/-! DEFINITION. The RunLengthTransform commands (41_run_length.md R155, R156). -/

namespace Sys2Proof.Machine

open Sys2Proof

/-- RLE_ENC after its label bytes are read (R155): the checks of R153, then the run records. -/
def rleEncContent (l : Latch) (depth : Nat) (bs : List Byte) : Except ErrorCode Plan :=
  match runsFromLabels depth bs with
  | .error e => .error e
  | .ok runs =>
    .ok
      { runs := runs, lead := [], form := .records,
        upd := { runCount := some (countWord runs.length), labelCount := some l.count } }

/-- RLE_ENC (R155). -/
def execRleEnc (s : State) : Host.Outcome State Fault Refusal :=
  runCommand
    (countedInput none s.latch.labelInput .truncatedStream (rleEncContent s.latch s.params.runBufDepth)) s

/-- RLE_DEC after its run records are read (R156): ZERO_LENGTH_RUN, then COUNT_OVERFLOW, then the labels. -/
def rleDecContent (l : Latch) (bs : List Byte) : Except ErrorCode Plan :=
  let runs := recordsOf bs
  if hasZeroLength runs then .error .zeroLengthRun
  else if maxWord < totalLength runs then .error .countOverflow
  else
    .ok
      { runs := runs, lead := [], form := .labels,
        upd := { runCount := some l.count, labelCount := some (countWord (totalLength runs)) } }

/-- RLE_DEC (R156). -/
def execRleDec (s : State) : Host.Outcome State Fault Refusal :=
  runCommand
    (countedInput (checkCount s.latch s.params.runBufDepth) s.latch.recordInput .truncatedStream
      (rleDecContent s.latch)) s

end Sys2Proof.Machine
end

