-- ==== Sys2Proof/Machine/Dispatch.lean ====
section
/-! DEFINITION. `exec`: one atomic engine step of a command (20_memory.md R69), one arm per row of the opcode map. -/

namespace Sys2Proof.Machine

open Sys2Proof

-- exec i s: the engine's next atomic step while it runs the command i (10_state.md R45, R49).
def exec (i : Instr) (s : State) : Host.Outcome State Fault Refusal :=
  match i with
  | .nop => Sys2Proof.Machine.execNop s
  | .encMagic => Sys2Proof.Machine.execEncMagic s
  | .chkMagic => Sys2Proof.Machine.execChkMagic s
  | .copyMagic => Sys2Proof.Machine.execCopyMagic s
  | .rleEnc => Sys2Proof.Machine.execRleEnc s
  | .rleDec => Sys2Proof.Machine.execRleDec s
  | .width => Sys2Proof.Machine.execWidth s
  | .pack => Sys2Proof.Machine.execPack s
  | .unpack => Sys2Proof.Machine.execUnpack s
  | .encBlock => Sys2Proof.Machine.execEncBlock s
  | .decBlock => Sys2Proof.Machine.execDecBlock s
  | .runsToBen32 => Sys2Proof.Machine.execRunsToBen32 s
  | .ben32ToRuns => Sys2Proof.Machine.execBen32ToRuns s
  | .encBen32 => Sys2Proof.Machine.execEncBen32 s
  | .blockToBen32 => Sys2Proof.Machine.execBlockToBen32 s
  | .ben32ToBlock => Sys2Proof.Machine.execBen32ToBlock s

end Sys2Proof.Machine
end

