-- ==== Sys2Proof/Machine/HostAccess.lean ====
section
/-! DEFINITION. Host accesses: the register map (10_state.md R21), what a read of each register returns and what a write
of each does (R22 to R39, 40_command_model.md R132 to R135). -/

namespace Sys2Proof.Machine

open Sys2Proof

/-- BUSY: the engine is in BUSY.INPUT or BUSY.OUTPUT (R45). -/
def Engine.busy : Engine → Bool
  | .idle => false
  | .busyInput => true
  | .busyOutput => true
  | .error => false

/-- The register at an offset of the register map (R21); every other offset of the space is reserved (R38). -/
def regAt (off : Nat) : Reg :=
  match off with
  | 0x00 => .id
  | 0x04 => .ctrl
  | 0x08 => .cmd
  | 0x0C => .status
  | 0x10 => .valueBits
  | 0x14 => .lengthBits
  | 0x18 => .byteLength
  | 0x1C => .count
  | 0x20 => .runCount
  | 0x24 => .labelCount
  | 0x28 => .blockCount
  | 0x2C => .inData
  | 0x30 => .outData
  | 0x34 => .inLevel
  | 0x38 => .outLevel
  | 0x3C => .inDepth
  | 0x40 => .outDepth
  | 0x44 => .runBufDepth
  | _ => .reserved

/-- What a read of OUT_DATA returns (R34, R135): `0x100 | b` for the head of OUT, 0 when OUT is empty. -/
def outDataWord (outq : List Byte) : Word :=
  match outq with
  | b :: _ => 0x100 ||| b.setWidth 32
  | [] => 0

/-- The value a read of a register returns (R22 to R38). -/
def State.readValue (s : State) : Reg → Word
  | .id => Config.idValue
  | .ctrl => ctrlWord s.strict s.inEof
  | .cmd => s.cmd
  | .status => s.status.word
  | .valueBits => s.valueBits.setWidth 32
  | .lengthBits => s.lengthBits.setWidth 32
  | .byteLength => s.byteLength
  | .count => s.count
  | .runCount => s.runCount
  | .labelCount => s.labelCount
  | .blockCount => s.blockCount
  | .inData => 0
  | .outData => outDataWord s.outq
  | .inLevel => BitVec.ofNat 32 s.inq.length
  | .outLevel => BitVec.ofNat 32 s.outq.length
  | .inDepth => BitVec.ofNat 32 s.params.inDepth
  | .outDepth => BitVec.ofNat 32 s.params.outDepth
  | .runBufDepth => BitVec.ofNat 32 s.params.runBufDepth
  | .reserved => 0

/-- The head of OUT is removed (R135); an empty OUT stays empty. -/
def State.popOut (s : State) : State := { s with outq := s.outq.tail }

/-- A host read (R132): the value is returned; only OUT_DATA has a side effect (R70). -/
def State.readReg (s : State) (r : Reg) : State :=
  match r with
  | .outData => (s.recordRead (s.readValue .outData)).popOut
  | r => s.recordRead (s.readValue r)

/-- CTRL.STRICT, CTRL.IN_EOF and CTRL.EOF_CLR of a write without ABORT (R23, R39): STRICT and EOF_CLR act only while the
engine is not BUSY. A write that both sets and clears the flag leaves a free value (log 4). -/
def State.writeCtrlFields (s : State) (v : Word) : State :=
  let free := !s.eng.busy
  let set := v.getLsbD 2
  let clr := v.getLsbD 3 && free
  { s with
    strict := if free then v.getLsbD 0 else s.strict
    inEof := if set && clr then Config.eofSetAndCleared s.freeCount else set || (s.inEof && !clr)
    freeCount := if set && clr then s.freeCount + 1 else s.freeCount }

/-- A write of CTRL (R23): with bit 1 it is only the abort (R133). -/
def State.writeCtrl (s : State) (v : Word) : State := if v.getLsbD 1 then s.abort else s.writeCtrlFields v

/-- A write of CMD (R24): accepted in IDLE (R121), dropped with OVR otherwise (R279). -/
def State.writeCmd (s : State) (v : Word) : State :=
  match s.eng with
  | .idle => s.accept v
  | .busyInput => s.overrun
  | .busyOutput => s.overrun
  | .error => s.overrun

/-- A write of IN_DATA (R134). -/
def State.writeInData (s : State) (v : Word) : State :=
  match s.eng with
  | .error => s
  | _ => if s.inEof ∨ s.inq.length = s.params.inDepth then s.overrun else s.setIn (s.inq ++ [v.setWidth 8])

/-- A write of an operand register or of BLOCK_COUNT takes effect only while the engine is not BUSY (R39). -/
def State.unlessBusy (s t : State) : State := if s.eng.busy then s else t

/-- A host write (R132): what each register's rule gives; read-only and reserved registers ignore it (R21, R38). -/
def State.writeReg (s : State) (r : Reg) (v : Word) : State :=
  match r with
  | .id => s
  | .ctrl => s.writeCtrl v
  | .cmd => s.writeCmd v
  | .status => s
  | .valueBits => s.unlessBusy { s with valueBits := v.setWidth 8 }
  | .lengthBits => s.unlessBusy { s with lengthBits := v.setWidth 8 }
  | .byteLength => s.unlessBusy { s with byteLength := v }
  | .count => s.unlessBusy { s with count := v }
  | .runCount => s
  | .labelCount => s
  | .blockCount => s.unlessBusy { s with blockCount := v }
  | .inData => s.writeInData v
  | .outData => s
  | .inLevel => s
  | .outLevel => s
  | .inDepth => s
  | .outDepth => s
  | .runBufDepth => s
  | .reserved => s

/-- One host access (R69, R132); an access outside the interface is refused (R67). -/
def hostTurn (s : State) (a : Access) : Result :=
  match a.problem s.params.base with
  | some why => .refused (.badAccess why)
  | none =>
    match a with
    | .read addr _ => .next (s.readReg (regAt (addr - s.params.base)))
    | .write addr _ v => .next (s.writeReg (regAt (addr - s.params.base)) v)

/-- The engine's fetch: the command it holds is the latched word (R122, R123). -/
def State.fetch (s : State) : Except Reject Instr := decode s.latch.word

/-- `withFetchWord`'s placing of a command word: the word is accepted (R121), as by a CMD write, and the next turn is the
engine's. -/
def State.placeCommand (s : State) (v : Word) : State :=
  (s.accept v).setTurns
    (match s.turns with
    | [] => []
    | t :: ts => .engine :: t :: ts)

end Sys2Proof.Machine
end

