-- ==== Sys2Proof/Machine/Step.lean ====
section
/-! DEFINITION. `step`: one atomic step of the agent whose turn it is (20_memory.md R69, R73). -/

namespace Sys2Proof.Machine

open Sys2Proof

/-- One engine step: BUSY, the legality check (R123) and then a step of the latched command; otherwise none (R45). -/
def engineTurn (s : State) : Result :=
  if s.eng.busy then
    match s.fetch with
    | .ok i => exec i s
    | .error _ => .next (s.raise .illegalCommand)
  else .next s

/-- One atomic step (R73): the next turn's agent acts; with no turn left the engine acts (R138, log 1). -/
def step (s : State) : Host.Outcome State Fault Refusal :=
  match s.turns with
  | [] => engineTurn s
  | .engine :: ts => engineTurn (s.setTurns ts)
  | .access a :: ts => hostTurn (s.setTurns ts) a
  | .reset :: ts => .next (s.setTurns ts).resetEvent

/-- `s` with the command word `w` of `nbits` bits accepted and the engine's turn next (log 7): the very next step runs
it. -/
def State.withFetchWord (s : State) (nbits w : Nat) : State := s.placeCommand (BitVec.ofNat 32 (w % 2 ^ nbits))

end Sys2Proof.Machine
end

