-- ==== Sys2Proof/Machine/Files.lean ====
section
/-! DEFINITION. A BEN file and a ben32 stream as byte sequences (30_encoding.md R90, R91), and the pure functions that
the host sequences of 43_block_codec.md R207, R208 and 44_ben32.md R237 compute with the block's commands. -/

namespace Sys2Proof.Machine

open Sys2Proof

/-- The runs of one sample as 16-bit fields (R150, R153); used where every run is at most 65535 long. -/
def sampleRuns (xs : List Half) : List Run := (rleEncode xs).map toRun

/-- A sample the block can encode: runs at most 65535 long, at most `depth` of them (R209), a number of labels that COUNT
holds (R29), and a payload length that its header field holds (R271). -/
def encodable (depth : Nat) (xs : List Half) : Bool :=
  ((rleEncode xs).all fun r => decide (r.2 ≤ 65535)) && decide ((rleEncode xs).length ≤ depth) &&
    decide (xs.length ≤ maxWord) &&
    decide (byteLen (sampleRuns xs).length (widths (sampleRuns xs)).1 (widths (sampleRuns xs)).2 ≤ maxWord)

/-- `encodeFile(samples)` (R207, R90): the magic, then one BEN block per sample, with no delimiter. -/
def encodeFile (samples : List (List Half)) : List Byte :=
  magic ++ samples.flatMap fun xs => encodeBlock (sampleRuns xs)

/-- `jsonlToBen32(samples)` (R237, R91): the magic, then one Ben32Block per sample. -/
def encodeBen32File (samples : List (List Half)) : List Byte :=
  magic ++ samples.flatMap fun xs => ben32Block (sampleRuns xs)

/-- One BEN block at the head of a file that ends where `bs` ends (R202): its runs and the bytes after it. -/
def readBenBlock (depth : Nat) (strict : Bool) (bs : List Byte) : Except ErrorCode (List Run × List Byte) :=
  match bs with
  | vb :: lb :: a :: b :: c :: d :: rest =>
    if rest.length < (wordOf a b c d).toNat then .error .truncatedStream
    else
      match unpack (rest.take (wordOf a b c d).toNat) vb.toNat lb.toNat strict with
      | .error e => .error e
      | .ok runs =>
        if depth < runs.length then .error .runBufferFull else .ok (runs, rest.drop (wordOf a b c d).toNat)
  | _ => .error .truncatedStream

/-- The DEC_BLOCK loop of `decodeFile` (R208), at most `n` blocks: block by block until the end of the input. -/
def decodeBlocks (depth : Nat) (strict : Bool) : Nat → List Byte → Except ErrorCode (List (List Half))
  | _, [] => .ok []
  | 0, _ :: _ => .error .truncatedStream
  | n + 1, b :: bs =>
    match readBenBlock depth strict (b :: bs) with
    | .error e => .error e
    | .ok (runs, rest) =>
      if maxWord < totalLength runs then .error .countOverflow
      else
        match decodeBlocks depth strict n rest with
        | .error e => .error e
        | .ok samples => .ok (rleDecode runs :: samples)

/-- `decodeFile(file)` (R208) with a run buffer of `depth` runs. A block is at least 6 bytes long, so the length of the
file bounds the number of blocks. -/
def decodeFile (depth : Nat) (strict : Bool) (file : List Byte) : Except ErrorCode (List (List Half)) :=
  if file.take 17 = magic then decodeBlocks depth strict file.length (file.drop 17) else .error .formatError

end Sys2Proof.Machine
end

