-- ==== Sys2Proof/Safety.lean ====
section
/-! DEFINITION. The terms the statements use: runs of one command, what a finished or a failed command leaves, reads and
writes at a register offset, and the invariants of the block. -/

namespace Sys2Proof.Machine

open Sys2Proof

/-! ### Running one command -/

/-- `n` atomic engine steps of the command `i` with no other agent's step in between, stopping at a fault or a
refusal. -/
def execSteps (i : Instr) : Nat → State → Result
  | 0, s => .next s
  | n + 1, s =>
    match exec i s with
    | .next t => execSteps i n t
    | .fault r => .fault r
    | .refused r => .refused r

/-- A state that acceptance of a command word leaves (R121): BUSY.INPUT, nothing done yet, the accumulator and the run
buffer empty. The latched operands, the registers and the FIFOs are any. -/
def Accepted (s : State) : Prop :=
  s.eng = .busyInput ∧ s.pos = .start ∧ s.acc = 0 ∧ s.accN = 0 ∧ s.runBuf = []

/-- `s` after a command that left `rest` in IN, wrote `out`, put `runs` into the run buffer and completed with the
updates `u` (R127, R128). -/
def completedState (s : State) (rest out : List Byte) (runs : List Run) (u : Updates) : State :=
  { s with
    inq := rest
    outq := s.outq ++ out
    runBuf := runs
    acc := 0
    accN := 0
    valueBits := u.valueBits.getD s.valueBits
    lengthBits := u.lengthBits.getD s.lengthBits
    byteLength := u.byteLength.getD s.byteLength
    runCount := u.runCount.getD s.runCount
    labelCount := u.labelCount.getD s.labelCount
    blockCount := if u.block then s.blockCount + 1 else s.blockCount
    status := { s.status with busy := false, done := true }
    eng := .idle
    pos := .none }

/-- `s` after error entry with code `e` (R273). -/
def failedState (s : State) (e : ErrorCode) : State :=
  { s with
    status := { s.status with busy := false, err := true, errCode := e.code }
    inq := []
    acc := 0
    accN := 0
    runBuf := []
    eng := .error
    pos := .none }

/-- The code of the first check that fails, in the order of the list (R274, R275). -/
def firstError : List (Bool × ErrorCode) → Option ErrorCode
  | [] => none
  | (fails, e) :: rest => if fails then some e else firstError rest

/-! ### Which commands read what (R81, R83) -/

/-- The commands that read one BEN block (R202). -/
def readsBenBlock (i : Instr) : Bool := i == .decBlock || i == .blockToBen32

/-- The commands that read one ben32 block (R231). -/
def readsBen32 (i : Instr) : Bool := i == .ben32ToRuns || i == .ben32ToBlock

/-- The commands that read labels (R152). -/
def readsLabels (i : Instr) : Bool := i == .rleEnc || i == .encBlock || i == .encBen32

/-- The commands that read run records (R154). -/
def readsRecords (i : Instr) : Bool := i == .rleDec || i == .width || i == .pack || i == .runsToBen32

/-- The commands that read the magic (R205, R206). -/
def readsMagic (i : Instr) : Bool := i == .chkMagic || i == .copyMagic

/-- The commands whose amount of input is fixed when they start reading bytes. -/
def readsCounted (i : Instr) : Bool := readsLabels i || readsRecords i || readsMagic i

/-- The amount of input of a command of `readsCounted`, in bytes (R83). -/
def inputBytes (i : Instr) (l : Latch) : Nat :=
  if readsMagic i then 17
  else if readsLabels i then 2 * l.count.toNat
  else if readsRecords i then 4 * l.count.toNat
  else 0

/-- The engine's next step for `i` is an `InRead()` (R124). -/
def wantsByte (i : Instr) (s : State) : Bool :=
  s.eng == .busyInput &&
    match s.pos with
    | .bytes got => readsCounted i && decide (got.length < inputBytes i s.latch)
    | .header got => readsBenBlock i && decide (got.length < 6)
    | .payload p => (i == .unpack || readsBenBlock i) && decide (0 < p.left)
    | .words part _ => readsBen32 i && decide (part.length < 4)
    | _ => false

/-- The engine's next step for `i` is an `AtEnd()` (R124, R129). -/
def peeksInput (i : Instr) (s : State) : Bool :=
  s.eng == .busyInput && s.pos == .start && (readsBenBlock i || readsBen32 i)

/-- The operand checks of `i` (R274 tier 1) pass. -/
def operandsPass (i : Instr) (s : State) : Bool :=
  (!(i == .rleDec || i == .pack || i == .runsToBen32) || decide (s.latch.count.toNat ≤ s.params.runBufDepth)) &&
    (!(i == .pack || i == .unpack) || widthsLegal s.latch.vb.toNat s.latch.lb.toNat)

/-! ### Host accesses at an offset of the register map -/

def readAt (s : State) (off : Nat) : Result := hostTurn s (.read (s.params.base + off) 4)

def writeAt (s : State) (off : Nat) (v : Word) : Result := hostTurn s (.write (s.params.base + off) 4 v)

/-- An access that performs the abort (R133): a CTRL write with bit 1 = 1. -/
def isAbort (base : Nat) (a : Access) : Bool :=
  match a with
  | .read _ _ => false
  | .write addr _ v => addr == base + 4 && v.getLsbD 1

/-! ### Invariants -/

/-- STATUS agrees with the engine state (R45), and the invariants R25 states of every reachable state. -/
def StatusAgrees (s : State) : Prop :=
  s.status.busy = s.eng.busy ∧
  s.status.err = (s.eng == .error) ∧
  (s.status.busy = true → s.status.done = false ∧ s.status.err = false ∧ s.status.atEnd = false) ∧
  (s.status.err = true →
    s.status.busy = false ∧ s.status.done = false ∧ s.status.atEnd = false ∧ s.status.errCode ≠ 0) ∧
  (s.status.atEnd = true → s.status.done = true) ∧
  (s.status.err = false → s.status.errCode = 0)

/-- The FIFOs and the run buffer hold no more than their capacities (R40, R41, R43). -/
def WithinCapacity (s : State) : Prop :=
  s.inq.length ≤ s.params.inDepth ∧ s.outq.length ≤ s.params.outDepth ∧ s.runBuf.length ≤ s.params.runBufDepth

/-- The accumulator holds at most 23 bits and none above its valid ones (R44). -/
def AccBounded (s : State) : Prop := s.accN ≤ 23 ∧ s.acc.toNat < 2 ^ s.accN

/-- A run fits the widths (R173). -/
def runFits (vb lb : Nat) (r : Run) : Prop := r.value.toNat < 2 ^ vb ∧ r.length.toNat < 2 ^ lb

/-- The unpacker's position (R44, R179): fewer bits are held than the field it waits for needs, and none once the stop
rule has fired or when the payload is read without unpacking. -/
def PayloadFits (s : State) (p : Payload) : Prop :=
  if widthsLegal p.vb.toNat p.lb.toNat = false then s.accN = 0
  else if p.stopped then s.accN = 0
  else
    match p.held with
    | none => s.accN < p.vb.toNat
    | some _ => s.accN < p.lb.toNat

/-- An item of the output phase whose field fits its width (R173). -/
def itemFits : Item → Prop
  | .byte _ => True
  | .push x w => 1 ≤ w ∧ w ≤ 16 ∧ x.toNat < 2 ^ w
  | .flush => True

/-- The position of the output phase: its items fit, and in packed form so does every run of the run buffer. -/
def OutputFits (s : State) (o : Output) : Prop :=
  (∀ x ∈ o.items, itemFits x) ∧
  o.next ≤ s.runBuf.length ∧
  match o.form with
  | .packed vb lb => widthsLegal vb lb = true ∧ ∀ r ∈ s.runBuf, runFits vb lb r
  | _ => True

/-- The position belongs to the input phase of the command `i`. -/
def InputFits (i : Instr) (s : State) : Prop :=
  match s.pos with
  | .start => s.accN = 0
  | .bytes got =>
    readsCounted i = true ∧ got.length ≤ inputBytes i s.latch ∧ operandsPass i s = true ∧ s.accN = 0
  | .header got => readsBenBlock i = true ∧ got.length ≤ 6 ∧ s.accN = 0
  | .payload p => (readsBenBlock i = true ∨ i = .unpack) ∧ PayloadFits s p
  | .words part _ => readsBen32 i = true ∧ part.length ≤ 4 ∧ s.accN = 0
  | _ => False

/-- The engine's position fits the engine state and the latched command (R45, R49). -/
def PosFits (s : State) : Prop :=
  match s.eng with
  | .idle => s.pos = .none
  | .error => s.pos = .none
  | .busyInput =>
    match s.fetch with
    | .ok i => InputFits i s
    | .error _ => s.pos = .start
  | .busyOutput =>
    (∃ i, s.fetch = .ok i) ∧
      match s.pos with
      | .writing o => OutputFits s o
      | _ => False

/-- What every reachable state satisfies. -/
def Inv (s : State) : Prop :=
  s.params.wellFormed = true ∧ StatusAgrees s ∧ WithinCapacity s ∧ AccBounded s ∧ PosFits s

end Sys2Proof.Machine
end

