-- ==== Sys2Proof/Certificates/Slice0/Obligations.lean ====
section
/-! DEFINITION. The statements for the provers. Each docstring names the rules of spec/ a statement formalises. The form
of the engine's position and the steps between the atomic steps of R69 are the model's choice (log 3), so are a wait as a
step that changes nothing (log 6) and the list of turns (log 1); a statement that speaks of them says so. -/

open Sys2Proof Sys2Proof.Machine

/-! ### Command words -/

/-- R81: decoding the command word of a command gives that command. -/
def Obligations.DecodeEncodeRoundTrip : Prop :=
  ∀ i : Instr, i.wellFormed = true → decode (encode i) = .ok i

/-- R81, R82: a word decodes to a command exactly if it is that command's word; it is rejected exactly if a RSVD bit is 1
or the OPCODE is one of the unassigned ones, and the name of the rejection says which. -/
def Obligations.DecodeAcceptsExactlyTheOpcodeMap : Prop :=
  (∀ (w : Word) (i : Instr), decode w = .ok i ↔ w = encode i) ∧
  (∀ w : Word, decode w = .error .reservedBits ↔ rsvdField w ≠ 0) ∧
  (∀ w : Word, decode w = .error .unassignedOpcode ↔
    rsvdField w = 0 ∧
      ((0x04 ≤ (opcodeField w).toNat ∧ (opcodeField w).toNat ≤ 0x0F) ∨
       (0x12 ≤ (opcodeField w).toNat ∧ (opcodeField w).toNat ≤ 0x1F) ∨
       (0x23 ≤ (opcodeField w).toNat ∧ (opcodeField w).toNat ≤ 0x2F) ∨
       (0x32 ≤ (opcodeField w).toNat ∧ (opcodeField w).toNat ≤ 0x3F) ∨
       0x45 ≤ (opcodeField w).toNat))

/-- R81: command words written out from the opcode map, one per family. -/
def Obligations.DecodeOfWrittenOutWords : Prop :=
  decode 0x00000000 = .ok .nop ∧ decode 0x00000003 = .ok .copyMagic ∧ decode 0x00000010 = .ok .rleEnc ∧
  decode 0x00000021 = .ok .pack ∧ decode 0x00000031 = .ok .decBlock ∧ decode 0x00000044 = .ok .ben32ToBlock ∧
  decode 0x00000100 = .error .reservedBits ∧ decode 0x00000012 = .error .unassignedOpcode

/-! ### Steps and turns -/

/-- R45, R123: when the engine has the turn and is BUSY with a latched word that decodes to `i`, the step is `exec i`,
with the turn taken off the list of turns; when the engine is not BUSY, only the turn is used up. The list of turns, and
that the engine has the turn when it is empty, are the model's choice (log 1). -/
def Obligations.StepRunsTheLatchedCommand : Prop :=
  (∀ (s : State) (i : Instr), s.turns = [] → s.eng.busy = true → decode s.latch.word = .ok i → step s = exec i s) ∧
  (∀ (s : State) (ts : List Turn) (i : Instr), s.turns = .engine :: ts → s.eng.busy = true →
    decode s.latch.word = .ok i → step s = exec i (s.setTurns ts)) ∧
  (∀ s : State, s.turns = [] → s.eng.busy = false → step s = .next s) ∧
  (∀ (s : State) (ts : List Turn), s.turns = .engine :: ts → s.eng.busy = false → step s = .next (s.setTurns ts))

/-- R123, R262, R273: with an illegal latched word the engine's step is the error entry with code 0x01, before any input
is read, whether the list of turns is empty or gives the engine the turn (log 1). -/
def Obligations.IllegalCommandEntersError : Prop :=
  let failed := fun s : State =>
    { s with
      status := { s.status with busy := false, err := true, errCode := 0x01 }
      inq := []
      acc := 0
      accN := 0
      runBuf := []
      eng := .error
      pos := .none }
  (∀ (s : State) (r : Reject), s.turns = [] → s.eng.busy = true → decode s.latch.word = .error r →
    step s = .next (failed s)) ∧
  (∀ (s : State) (ts : List Turn) (r : Reject), s.turns = .engine :: ts → s.eng.busy = true →
    decode s.latch.word = .error r → step s = .next (failed (s.setTurns ts)))

/-- R67, R60: a host turn whose access is not 32 bits wide, lies outside the 256 bytes at BASE, or is not at a multiple
of 4, is refused; every other access is one step with the effect of the register at its offset. That an access outside
the 256 bytes is refused like the others is the model's reading of R67 (log 8). -/
def Obligations.HostTurnsAreRefusedExactlyOutsideTheInterface : Prop :=
  ∀ (s : State) (ts : List Turn) (a : Access), s.turns = .access a :: ts →
    ((a.bytes ≠ 4 ∨ a.addr < s.params.base ∨ s.params.base + 256 ≤ a.addr ∨ (a.addr - s.params.base) % 4 ≠ 0) →
      ∃ why, step s = .refused (.badAccess why)) ∧
    (a.bytes = 4 → s.params.base ≤ a.addr → a.addr < s.params.base + 256 → (a.addr - s.params.base) % 4 = 0 →
      ∃ t, step s = .next t ∧
        ((∃ v, a = .write a.addr 4 v ∧ t = (s.setTurns ts).writeReg (regAt (a.addr - s.params.base)) v) ∨
         (a = .read a.addr 4 ∧ t = (s.setTurns ts).readReg (regAt (a.addr - s.params.base)))))

/-! ### Lifecycle -/

/-- R121, R122: a CMD write in IDLE accepts the word and latches the operands, in one step. -/
def Obligations.CmdWriteInIdleIsAcceptance : Prop :=
  ∀ (s : State) (v : Word), s.eng = .idle →
    writeAt s 0x08 v =
      .next
        { s with
          cmd := v
          status := { s.status with busy := true, done := false, atEnd := false }
          latch :=
            { op := v.extractLsb' 0 8, rsvd := v.extractLsb' 8 24, vb := s.valueBits, lb := s.lengthBits,
              bl := s.byteLength, count := s.count, strict := s.strict }
          acc := 0
          accN := 0
          runBuf := []
          eng := .busyInput
          pos := .start }

/-- R24, R279: a CMD write while BUSY or in ERROR changes nothing but OVR. -/
def Obligations.CmdWriteElsewhereIsDroppedWithOvr : Prop :=
  ∀ (s : State) (v : Word), s.eng ≠ .idle →
    writeAt s 0x08 v = .next { s with status := { s.status with ovr := true } }

/-- R128: when the last output byte is written, the next engine step of EVERY command is its completion: the command's
updates, STATUS and the engine state change together, and nothing else does. The form of the position is the model's
(log 3). -/
def Obligations.CompletionIsOneStep : Prop :=
  ∀ (i : Instr) (s : State) (o : Output), s.eng = .busyOutput → s.pos = .writing o → s.accN < 8 → o.items = [] →
    s.runBuf.length ≤ o.next → o.closed = true →
    exec i s =
      .next
        { s with
          valueBits := o.upd.valueBits.getD s.valueBits
          lengthBits := o.upd.lengthBits.getD s.lengthBits
          byteLength := o.upd.byteLength.getD s.byteLength
          runCount := o.upd.runCount.getD s.runCount
          labelCount := o.upd.labelCount.getD s.labelCount
          blockCount := if o.upd.block then s.blockCount + 1 else s.blockCount
          status := { s.status with busy := false, done := true }
          eng := .idle
          pos := .none }

/-- R129: a block command that finds IN empty and IN_EOF = 1 before its first byte ends with END in one step, which
changes only STATUS, IN_EOF and the engine state. -/
def Obligations.EndCompletionIsOneStep : Prop :=
  ∀ (i : Instr) (s : State), i = .decBlock ∨ i = .ben32ToRuns ∨ i = .blockToBen32 ∨ i = .ben32ToBlock →
    s.eng = .busyInput → s.pos = .start → s.inq = [] → s.inEof = true →
    exec i s =
      .next
        { s with
          status := { s.status with busy := false, done := true, atEnd := true }
          inEof := false
          eng := .idle
          pos := .none }

/-- R273, R260: whenever a step of any command enters ERROR, it does so from BUSY.INPUT, and the state after is the state
before but for STATUS, IN, the accumulator, the run buffer and the engine state; OUT, IN_EOF and every register are
unchanged. -/
def Obligations.ErrorEntryChangesOnlyWhatR273Lists : Prop :=
  ∀ (i : Instr) (s t : State), exec i s = .next t → s.eng ≠ .error → t.eng = .error →
    s.eng = .busyInput ∧ ∃ e : ErrorCode, t = failedState s e

/-- R133: a CTRL write with bit 1 = 1 performs only the abort, in any engine state. -/
def Obligations.AbortInAnyState : Prop :=
  ∀ (s : State) (v : Word), v.getLsbD 1 = true →
    writeAt s 0x04 v =
      .next
        { s with
          inq := []
          outq := []
          inEof := false
          status := Status.zero
          blockCount := 0
          acc := 0
          accN := 0
          runBuf := []
          eng := .idle
          pos := .none }

/-- R290: what reset leaves, read through the register map, and the state the host cannot read. The second clause is the
reset event in any state: it leaves the reset values with the same parameters; that the model's own fields (turns, reads,
free values used) are kept is the model's choice (log 1, log 10, log 4). -/
def Obligations.ResetLeavesTheStatedValues : Prop :=
  (State.reset.readValue .id = 0x42454E31 ∧ State.reset.readValue .ctrl = 0x00000001 ∧
    State.reset.cmd = 0 ∧ State.reset.readValue .status = 0x00000000 ∧
    State.reset.valueBits = 0 ∧ State.reset.lengthBits = 0 ∧ State.reset.byteLength = 0 ∧ State.reset.count = 0 ∧
    State.reset.runCount = 0 ∧ State.reset.labelCount = 0 ∧ State.reset.blockCount = 0 ∧
    State.reset.inq = [] ∧ State.reset.outq = [] ∧ State.reset.inEof = false ∧
    State.reset.acc = 0 ∧ State.reset.accN = 0 ∧ State.reset.runBuf = [] ∧
    State.reset.latch = ⟨0, 0, 0, 0, 0, 0, false⟩ ∧ State.reset.eng = .idle ∧
    State.reset.params = Config.params) ∧
  (∀ (s : State) (ts : List Turn), s.turns = .reset :: ts →
    step s =
      .next
        { State.reset with params := s.params, turns := ts, reads := s.reads, freeCount := s.freeCount })

/-- R277, R278: the only steps out of ERROR are the reset event and a CTRL write with bit 1 = 1; both go to IDLE with
STATUS = 0 and both FIFOs empty. -/
def Obligations.OnlyAbortAndResetLeaveError : Prop :=
  ∀ s t : State, step s = .next t → s.eng = .error → t.eng ≠ .error →
    t.eng = .idle ∧ t.status = Status.zero ∧ t.inq = [] ∧ t.outq = [] ∧
      ((∃ ts, s.turns = .reset :: ts) ∨
        ∃ ts v, s.turns = .access (.write (s.params.base + 0x04) 4 v) :: ts ∧ v.getLsbD 1 = true)

/-! ### Host accesses -/

/-- R21 to R38: what a read of each register returns; none of these reads changes the block. -/
def Obligations.RegisterReadsReturnTheMapsValues : Prop :=
  ∀ s : State,
    let reading := fun (off : Nat) (v : Word) => readAt s off = .next { s with reads := s.reads ++ [v] }
    reading 0x00 0x42454E31 ∧
    reading 0x04 (BitVec.ofNat 32 (s.strict.toNat + 4 * s.inEof.toNat)) ∧
    reading 0x08 s.cmd ∧
    reading 0x0C (BitVec.ofNat 32 (s.status.busy.toNat + 2 * s.status.done.toNat + 4 * s.status.err.toNat +
      8 * s.status.atEnd.toNat + 16 * s.status.ovr.toNat + 256 * s.status.errCode.toNat)) ∧
    reading 0x10 (BitVec.ofNat 32 s.valueBits.toNat) ∧
    reading 0x14 (BitVec.ofNat 32 s.lengthBits.toNat) ∧
    reading 0x18 s.byteLength ∧
    reading 0x1C s.count ∧
    reading 0x20 s.runCount ∧
    reading 0x24 s.labelCount ∧
    reading 0x28 s.blockCount ∧
    reading 0x2C 0 ∧
    reading 0x34 (BitVec.ofNat 32 s.inq.length) ∧
    reading 0x38 (BitVec.ofNat 32 s.outq.length) ∧
    reading 0x3C (BitVec.ofNat 32 s.params.inDepth) ∧
    reading 0x40 (BitVec.ofNat 32 s.params.outDepth) ∧
    reading 0x44 (BitVec.ofNat 32 s.params.runBufDepth) ∧
    ∀ k, 0x48 ≤ 4 * k → 4 * k ≤ 0xFC → reading (4 * k) 0

/-- R135, R34: a read of OUT_DATA pops the head `b` of OUT and returns `0x100 | b`; on an empty OUT it returns 0 and
changes nothing. -/
def Obligations.OutDataReadPopsOneByte : Prop :=
  (∀ (s : State) (b : Byte) (rest : List Byte), s.outq = b :: rest →
    readAt s 0x30 = .next { s with outq := rest, reads := s.reads ++ [0x100 ||| b.setWidth 32] }) ∧
  (∀ s : State, s.outq = [] → readAt s 0x30 = .next { s with reads := s.reads ++ [0] })

/-- R134: an IN_DATA write is dropped silently in ERROR, dropped with OVR when IN_EOF = 1 or IN is full, and otherwise
appends `v[7:0]` at the tail of IN. -/
def Obligations.InDataWritePushesOrDrops : Prop :=
  ∀ (s : State) (v : Word),
    writeAt s 0x2C v =
      .next
        (if s.eng = .error then s
         else if s.inEof = true ∨ s.inq.length = s.params.inDepth then
           { s with status := { s.status with ovr := true } }
         else { s with inq := s.inq ++ [v.extractLsb' 0 8] })

/-- R26 to R32, R39, R21, R38: writes of the operand registers and of BLOCK_COUNT take effect exactly while the engine is
not BUSY; writes of read-only and reserved registers never change anything. -/
def Obligations.OperandWritesTakeEffectUnlessBusy : Prop :=
  (∀ (s : State) (v : Word), s.eng.busy = true →
    ∀ off ∈ [0x10, 0x14, 0x18, 0x1C, 0x28], writeAt s off v = .next s) ∧
  (∀ (s : State) (v : Word), s.eng.busy = false →
    writeAt s 0x10 v = .next { s with valueBits := v.extractLsb' 0 8 } ∧
    writeAt s 0x14 v = .next { s with lengthBits := v.extractLsb' 0 8 } ∧
    writeAt s 0x18 v = .next { s with byteLength := v } ∧
    writeAt s 0x1C v = .next { s with count := v } ∧
    writeAt s 0x28 v = .next { s with blockCount := v }) ∧
  (∀ (s : State) (v : Word),
    (∀ off ∈ [0x00, 0x0C, 0x20, 0x24, 0x30, 0x34, 0x38, 0x3C, 0x40, 0x44], writeAt s off v = .next s) ∧
    ∀ k, 0x48 ≤ 4 * k → 4 * k ≤ 0xFC → writeAt s (4 * k) v = .next s)

/-- R23, R39, R42: a CTRL write without ABORT, while BUSY and while not BUSY. Where the write both sets and clears IN_EOF
while not BUSY the flag is a free value (log 4, the model's choice of form): that case says only that nothing else
changes. -/
def Obligations.CtrlWriteWithoutAbort : Prop :=
  ∀ (s : State) (v : Word), v.getLsbD 1 = false →
    (s.eng.busy = true → writeAt s 0x04 v = .next { s with inEof := s.inEof || v.getLsbD 2 }) ∧
    (s.eng.busy = false → (v.getLsbD 2 && v.getLsbD 3) = false →
      writeAt s 0x04 v =
        .next
          { s with
            strict := v.getLsbD 0
            inEof := if v.getLsbD 2 then true else if v.getLsbD 3 then false else s.inEof }) ∧
    (s.eng.busy = false → v.getLsbD 2 = true → v.getLsbD 3 = true →
      ∃ (flag : Bool) (n : Nat),
        writeAt s 0x04 v = .next { s with strict := v.getLsbD 0, inEof := flag, freeCount := n })

/-! ### Streams and phases -/

/-- R124: an `InRead()` or `AtEnd()` step with IN empty and IN_EOF = 0 changes nothing (the engine waits); an `InRead()`
step takes exactly the head of IN; with IN empty and IN_EOF = 1 it raises FORMAT_ERROR in the magic commands and
TRUNCATED_STREAM in all others. That a wait is a step that changes nothing is the model's choice (log 6). -/
def Obligations.InReadTakesTheHeadOrWaits : Prop :=
  (∀ (i : Instr) (s : State), wantsByte i s = true ∨ peeksInput i s = true → s.inq = [] → s.inEof = false →
    exec i s = .next s) ∧
  (∀ (i : Instr) (s : State) (b : Byte) (rest : List Byte), wantsByte i s = true → s.inq = b :: rest →
    ∃ t, exec i s = .next t ∧ t.inq = rest ∧ t.eng = .busyInput) ∧
  (∀ (i : Instr) (s : State), wantsByte i s = true → s.inq = [] → s.inEof = true →
    exec i s = .next (failedState s (if readsMagic i then .formatError else .truncatedStream)))

/-- R125, R174: the three positions whose step is an `OutWrite`: a byte of the sequence being written, the byte the packer
emits while ACC_N ≥ 8, and the last byte of its flush. With OUT full each step changes nothing, the accumulator included
(a wait as a step is the model's choice, log 6); with room it appends that byte to OUT, and the packer's accumulator
becomes what R174 gives. A flush with ACC_N = 0 writes no byte. -/
def Obligations.OutWriteAppendsOrWaits : Prop :=
  (∀ (i : Instr) (s : State) (o : Output) (b : Byte) (rest : List Item), s.eng = .busyOutput → s.pos = .writing o →
    s.accN < 8 → o.items = .byte b :: rest →
    (s.params.outDepth ≤ s.outq.length → exec i s = .next s) ∧
    (s.outq.length < s.params.outDepth →
      exec i s = .next { s with outq := s.outq ++ [b], pos := .writing { o with items := rest } })) ∧
  (∀ (i : Instr) (s : State) (o : Output), s.eng = .busyOutput → s.pos = .writing o → 8 ≤ s.accN →
    (s.params.outDepth ≤ s.outq.length → exec i s = .next s) ∧
    (s.outq.length < s.params.outDepth →
      exec i s =
        .next
          { s with
            outq := s.outq ++ [BitVec.ofNat 8 (s.acc.toNat / 2 ^ (s.accN - 8))]
            acc := BitVec.ofNat 23 (s.acc.toNat % 2 ^ (s.accN - 8))
            accN := s.accN - 8 })) ∧
  (∀ (i : Instr) (s : State) (o : Output) (rest : List Item), s.eng = .busyOutput → s.pos = .writing o →
    s.accN < 8 → o.items = .flush :: rest →
    (s.accN = 0 → exec i s = .next { s with acc := 0, pos := .writing { o with items := rest } }) ∧
    (s.accN ≠ 0 → s.params.outDepth ≤ s.outq.length → exec i s = .next s) ∧
    (s.accN ≠ 0 → s.outq.length < s.params.outDepth →
      exec i s =
        .next
          { s with
            outq := s.outq ++ [BitVec.ofNat 8 (s.acc.toNat * 2 ^ (8 - s.accN))]
            acc := 0
            accN := 0
            pos := .writing { o with items := rest } }))

/-- R126, R74: no step of an input phase changes OUT; a step of an output phase leaves IN and IN_EOF alone, does not
raise, and changes OUT at most by appending one byte where there is room; in IDLE and ERROR no step changes anything. -/
def Obligations.PhasesKeepTheirDiscipline : Prop :=
  ∀ (i : Instr) (s t : State), exec i s = .next t →
    (s.eng = .busyInput →
      t.outq = s.outq ∧ (t.inq = s.inq ∨ (∃ b, s.inq = b :: t.inq) ∨ (t.inq = [] ∧ t.eng = .error))) ∧
    (s.eng = .busyOutput →
      t.inq = s.inq ∧ t.inEof = s.inEof ∧ t.eng ≠ .error ∧ t.runBuf = s.runBuf ∧
        (t.outq = s.outq ∨ (s.outq.length < s.params.outDepth ∧ ∃ b, t.outq = s.outq ++ [b]))) ∧
    (s.eng = .idle ∨ s.eng = .error → t = s)

/-- R128, R139, R260, R37: no engine step changes a register but the completion step; no engine step at all changes CTRL.STRICT,
CMD, COUNT, the latched operands, OVR or the parameters. -/
def Obligations.RegistersChangeOnlyAtCompletion : Prop :=
  ∀ (i : Instr) (s t : State), exec i s = .next t →
    (¬ (s.eng = .busyOutput ∧ t.eng = .idle) →
      t.valueBits = s.valueBits ∧ t.lengthBits = s.lengthBits ∧ t.byteLength = s.byteLength ∧
      t.runCount = s.runCount ∧ t.labelCount = s.labelCount ∧ t.blockCount = s.blockCount) ∧
    t.strict = s.strict ∧ t.cmd = s.cmd ∧ t.count = s.count ∧ t.latch = s.latch ∧ t.status.ovr = s.status.ovr ∧
    t.params = s.params ∧ t.turns = s.turns ∧ t.reads = s.reads ∧ t.freeCount = s.freeCount

/-- R78, R39: a host access other than the abort cannot change the running command: its latched state, its position, the
run buffer, the accumulator, CMD and the operand and result registers stay as they are. -/
def Obligations.HostCannotDisturbTheRunningCommand : Prop :=
  ∀ (s t : State) (a : Access), hostTurn s a = .next t → s.eng.busy = true → isAbort s.params.base a = false →
    t.latch = s.latch ∧ t.pos = s.pos ∧ t.eng = s.eng ∧ t.runBuf = s.runBuf ∧ t.acc = s.acc ∧ t.accN = s.accN ∧
    t.cmd = s.cmd ∧ t.strict = s.strict ∧ t.valueBits = s.valueBits ∧ t.lengthBits = s.lengthBits ∧
    t.byteLength = s.byteLength ∧ t.count = s.count ∧ t.runCount = s.runCount ∧ t.labelCount = s.labelCount ∧
    t.blockCount = s.blockCount ∧ t.params = s.params

/-- R274: a command's outcome does not depend on how the host paces its pushes. Derived: while IN holds a byte and has
room for one more, a push and an engine step give the same state in either order. -/
def Obligations.PushCommutesWithEngineStep : Prop :=
  ∀ (i : Instr) (s t : State) (v : Word), s.inq ≠ [] → s.inq.length < s.params.inDepth → s.inEof = false →
    exec i s = .next t → exec i (s.writeInData v) = .next (t.writeInData v)

/-! ### Whole commands

Each statement runs the command's engine steps one after another from acceptance (their number is the model's, log 3), and
concludes that its last step, `exec` of the command, answers the completed state. That the run buffer still holds the
command's runs after it is the model's choice (log 11). -/

/-- R131: NOP completes; nothing but STATUS changes. -/
def Obligations.NopCompletes : Prop :=
  ∀ s : State, Accepted s →
    ∃ n u, execSteps .nop n s = .next u ∧ exec .nop u = .next (completedState s s.inq [] [] {})

/-- R204: ENC_MAGIC writes the 17 magic bytes. -/
def Obligations.EncMagicWritesTheMagic : Prop :=
  ∀ s : State, Accepted s → s.outq.length + 17 ≤ s.params.outDepth →
    ∃ n u, execSteps .encMagic n s = .next u ∧
      exec .encMagic u =
        .next
          (completedState s s.inq
            [0x53, 0x54, 0x41, 0x4E, 0x44, 0x41, 0x52, 0x44, 0x20, 0x42, 0x45, 0x4E, 0x20, 0x46, 0x49, 0x4C, 0x45]
            [] {})

/-- R205: CHK_MAGIC consumes exactly the 17 magic bytes and completes. -/
def Obligations.ChkMagicAcceptsTheMagic : Prop :=
  ∀ (s : State) (rest : List Byte), Accepted s → s.inq = magic ++ rest →
    ∃ n u, execSteps .chkMagic n s = .next u ∧ exec .chkMagic u = .next (completedState s rest [] [] {})

/-- R206: COPY_MAGIC consumes exactly the 17 magic bytes and writes the same 17 bytes. -/
def Obligations.CopyMagicCopiesTheMagic : Prop :=
  ∀ (s : State) (rest : List Byte), Accepted s → s.inq = magic ++ rest →
    s.outq.length + 17 ≤ s.params.outDepth →
    ∃ n u, execSteps .copyMagic n s = .next u ∧ exec .copyMagic u = .next (completedState s rest magic [] {})

/-- R155, R139, R127: RLE_ENC turns COUNT labels into the run records of `rle_encode`. -/
def Obligations.RleEncWritesTheRunRecords : Prop :=
  ∀ (s : State) (xs : List Half) (rest : List Byte), Accepted s →
    s.latch.count.toNat = xs.length → s.inq = xs.flatMap labelBytes ++ rest →
    (∀ r ∈ rleEncode xs, r.2 ≤ 65535) → (rleEncode xs).length ≤ s.params.runBufDepth →
    s.outq.length + 4 * (rleEncode xs).length ≤ s.params.outDepth →
    ∃ n u, execSteps .rleEnc n s = .next u ∧
      exec .rleEnc u =
        .next
          (completedState s rest (((rleEncode xs).map toRun).flatMap recBytes) ((rleEncode xs).map toRun)
            { runCount := some (BitVec.ofNat 32 (rleEncode xs).length), labelCount := some s.latch.count })

/-- R156, R139, R127: RLE_DEC expands COUNT run records into labels. -/
def Obligations.RleDecWritesTheLabels : Prop :=
  ∀ (s : State) (runs : List Run) (rest : List Byte), Accepted s →
    s.latch.count.toNat = runs.length → s.inq = runs.flatMap recBytes ++ rest →
    runs.length ≤ s.params.runBufDepth → (∀ r ∈ runs, r.length ≠ 0) → totalLength runs ≤ 2 ^ 32 - 1 →
    s.outq.length + 2 * totalLength runs ≤ s.params.outDepth →
    ∃ n u, execSteps .rleDec n s = .next u ∧
      exec .rleDec u =
        .next
          (completedState s rest ((rleDecode runs).flatMap labelBytes) runs
            { runCount := some s.latch.count, labelCount := some (BitVec.ofNat 32 (totalLength runs)) })

/-- R182, R171, R172, R139: WIDTH gives the minimal widths and the payload length of COUNT run records, and writes no
byte. -/
def Obligations.WidthGivesTheWidths : Prop :=
  ∀ (s : State) (runs : List Run) (rest : List Byte), Accepted s →
    s.latch.count.toNat = runs.length → s.inq = runs.flatMap recBytes ++ rest →
    (∀ r ∈ runs, r.length ≠ 0) → byteLen runs.length (widths runs).1 (widths runs).2 ≤ 2 ^ 32 - 1 →
    ∃ n u, execSteps .width n s = .next u ∧
      exec .width u =
        .next
          (completedState s rest [] []
            { valueBits := some (BitVec.ofNat 8 (widths runs).1), lengthBits := some (BitVec.ofNat 8 (widths runs).2),
              byteLength := some (BitVec.ofNat 32 (byteLen runs.length (widths runs).1 (widths runs).2)),
              runCount := some s.latch.count })

/-- R183, R173, R174, R139: PACK writes exactly the bytes of `pack` (R173), which the packer's accumulator procedure
(R174) produces. -/
def Obligations.PackWritesThePayload : Prop :=
  ∀ (s : State) (runs : List Run) (rest : List Byte), Accepted s →
    widthsLegal s.latch.vb.toNat s.latch.lb.toNat = true → s.latch.count.toNat = runs.length →
    s.inq = runs.flatMap recBytes ++ rest → runs.length ≤ s.params.runBufDepth → (∀ r ∈ runs, r.length ≠ 0) →
    (∀ r ∈ runs, r.value.toNat < 2 ^ s.latch.vb.toNat ∧ r.length.toNat < 2 ^ s.latch.lb.toNat) →
    byteLen runs.length s.latch.vb.toNat s.latch.lb.toNat ≤ 2 ^ 32 - 1 →
    s.outq.length + byteLen runs.length s.latch.vb.toNat s.latch.lb.toNat ≤ s.params.outDepth →
    ∃ n u, execSteps .pack n s = .next u ∧
      exec .pack u =
        .next
          (completedState s rest (pack runs s.latch.vb.toNat s.latch.lb.toNat) runs
            { byteLength := some (BitVec.ofNat 32 (byteLen runs.length s.latch.vb.toNat s.latch.lb.toNat)),
              runCount := some s.latch.count })

/-- R184, R178, R139: UNPACK reads BYTE_LENGTH payload bytes and writes the run records of `unpack`. -/
def Obligations.UnpackWritesTheRunRecords : Prop :=
  ∀ (s : State) (P rest : List Byte) (runs : List Run), Accepted s →
    s.latch.bl.toNat = P.length → s.inq = P ++ rest →
    unpack P s.latch.vb.toNat s.latch.lb.toNat s.latch.strict = .ok runs → runs.length ≤ s.params.runBufDepth →
    s.outq.length + 4 * runs.length ≤ s.params.outDepth →
    ∃ n u, execSteps .unpack n s = .next u ∧
      exec .unpack u =
        .next
          (completedState s rest (runs.flatMap recBytes) runs
            { runCount := some (BitVec.ofNat 32 runs.length) })

/-- R201, R200, R139: ENC_BLOCK turns COUNT labels into one BEN block. -/
def Obligations.EncBlockWritesTheBlock : Prop :=
  ∀ (s : State) (xs : List Half) (rest : List Byte) (runs : List Run) (vb lb bl : Nat), Accepted s →
    s.latch.count.toNat = xs.length → s.inq = xs.flatMap labelBytes ++ rest →
    (∀ r ∈ rleEncode xs, r.2 ≤ 65535) → (rleEncode xs).length ≤ s.params.runBufDepth →
    runs = (rleEncode xs).map toRun → (vb, lb) = widths runs → bl = byteLen runs.length vb lb → bl ≤ 2 ^ 32 - 1 →
    s.outq.length + (6 + bl) ≤ s.params.outDepth →
    ∃ n u, execSteps .encBlock n s = .next u ∧
      exec .encBlock u =
        .next
          (completedState s rest
            (hdrBytes (BitVec.ofNat 8 vb) (BitVec.ofNat 8 lb) (BitVec.ofNat 32 bl) ++ pack runs vb lb) runs
            { valueBits := some (BitVec.ofNat 8 vb), lengthBits := some (BitVec.ofNat 8 lb),
              byteLength := some (BitVec.ofNat 32 bl), runCount := some (BitVec.ofNat 32 runs.length),
              labelCount := some s.latch.count, block := true })

/-- R203, R202, R178, R139: DEC_BLOCK reads one BEN block and writes its labels. -/
def Obligations.DecBlockWritesTheLabels : Prop :=
  ∀ (s : State) (vb lb : Byte) (bl : Word) (P rest : List Byte) (runs : List Run), Accepted s →
    bl.toNat = P.length → s.inq = hdrBytes vb lb bl ++ P ++ rest →
    unpack P vb.toNat lb.toNat s.latch.strict = .ok runs → runs.length ≤ s.params.runBufDepth →
    totalLength runs ≤ 2 ^ 32 - 1 → s.outq.length + 2 * totalLength runs ≤ s.params.outDepth →
    ∃ n u, execSteps .decBlock n s = .next u ∧
      exec .decBlock u =
        .next
          (completedState s rest ((rleDecode runs).flatMap labelBytes) runs
            { valueBits := some vb, lengthBits := some lb, byteLength := some bl,
              runCount := some (BitVec.ofNat 32 runs.length),
              labelCount := some (BitVec.ofNat 32 (totalLength runs)), block := true })

/-- R232, R230, R139: RUNS_TO_BEN32 wraps COUNT run records as one Ben32Block. -/
def Obligations.RunsToBen32WritesTheBlock : Prop :=
  ∀ (s : State) (runs : List Run) (rest : List Byte), Accepted s →
    s.latch.count.toNat = runs.length → s.inq = runs.flatMap recBytes ++ rest →
    runs.length ≤ s.params.runBufDepth → (∀ r ∈ runs, r.length ≠ 0) →
    s.outq.length + (4 * runs.length + 4) ≤ s.params.outDepth →
    ∃ n u, execSteps .runsToBen32 n s = .next u ∧
      exec .runsToBen32 u =
        .next
          (completedState s rest (runs.flatMap recBytes ++ [0, 0, 0, 0]) runs
            { runCount := some s.latch.count, block := true })

/-- R233, R231, R139: BEN32_TO_RUNS reads one Ben32Block and writes its run records. -/
def Obligations.Ben32ToRunsWritesTheRunRecords : Prop :=
  ∀ (s : State) (runs : List Run) (rest : List Byte), Accepted s →
    s.inq = runs.flatMap recBytes ++ [0, 0, 0, 0] ++ rest → (∀ r ∈ runs, r.length ≠ 0) →
    (s.latch.strict = true → maximalRuns runs = true) → runs.length ≤ s.params.runBufDepth →
    s.outq.length + 4 * runs.length ≤ s.params.outDepth →
    ∃ n u, execSteps .ben32ToRuns n s = .next u ∧
      exec .ben32ToRuns u =
        .next
          (completedState s rest (runs.flatMap recBytes) runs
            { runCount := some (BitVec.ofNat 32 runs.length), block := true })

/-- R234, R230, R139: ENC_BEN32 turns COUNT labels into one Ben32Block. -/
def Obligations.EncBen32WritesTheBlock : Prop :=
  ∀ (s : State) (xs : List Half) (rest : List Byte) (runs : List Run), Accepted s →
    s.latch.count.toNat = xs.length → s.inq = xs.flatMap labelBytes ++ rest →
    (∀ r ∈ rleEncode xs, r.2 ≤ 65535) → (rleEncode xs).length ≤ s.params.runBufDepth →
    runs = (rleEncode xs).map toRun → s.outq.length + (4 * runs.length + 4) ≤ s.params.outDepth →
    ∃ n u, execSteps .encBen32 n s = .next u ∧
      exec .encBen32 u =
        .next
          (completedState s rest (runs.flatMap recBytes ++ [0, 0, 0, 0]) runs
            { runCount := some (BitVec.ofNat 32 runs.length), labelCount := some s.latch.count, block := true })

/-- R235, R202, R230, R139: BLOCK_TO_BEN32 transcodes one BEN block into one Ben32Block. -/
def Obligations.BlockToBen32Transcodes : Prop :=
  ∀ (s : State) (vb lb : Byte) (bl : Word) (P rest : List Byte) (runs : List Run), Accepted s →
    bl.toNat = P.length → s.inq = hdrBytes vb lb bl ++ P ++ rest →
    unpack P vb.toNat lb.toNat s.latch.strict = .ok runs → runs.length ≤ s.params.runBufDepth →
    s.outq.length + (4 * runs.length + 4) ≤ s.params.outDepth →
    ∃ n u, execSteps .blockToBen32 n s = .next u ∧
      exec .blockToBen32 u =
        .next
          (completedState s rest (runs.flatMap recBytes ++ [0, 0, 0, 0]) runs
            { valueBits := some vb, lengthBits := some lb, byteLength := some bl,
              runCount := some (BitVec.ofNat 32 runs.length), block := true })

/-- R236, R231, R200, R139: BEN32_TO_BLOCK transcodes one Ben32Block into one BEN block with its own widths. -/
def Obligations.Ben32ToBlockTranscodes : Prop :=
  ∀ (s : State) (runs : List Run) (rest : List Byte) (vb lb bl : Nat), Accepted s →
    s.inq = runs.flatMap recBytes ++ [0, 0, 0, 0] ++ rest → (∀ r ∈ runs, r.length ≠ 0) →
    (s.latch.strict = true → maximalRuns runs = true) → runs.length ≤ s.params.runBufDepth →
    (vb, lb) = widths runs → bl = byteLen runs.length vb lb → bl ≤ 2 ^ 32 - 1 →
    s.outq.length + (6 + bl) ≤ s.params.outDepth →
    ∃ n u, execSteps .ben32ToBlock n s = .next u ∧
      exec .ben32ToBlock u =
        .next
          (completedState s rest
            (hdrBytes (BitVec.ofNat 8 vb) (BitVec.ofNat 8 lb) (BitVec.ofNat 32 bl) ++ pack runs vb lb) runs
            { valueBits := some (BitVec.ofNat 8 vb), lengthBits := some (BitVec.ofNat 8 lb),
              byteLength := some (BitVec.ofNat 32 bl), runCount := some (BitVec.ofNat 32 runs.length),
              block := true })

/-! ### Failing commands: the first failing check decides the code (R274, R275) -/

/-- R205, R206, R263: 17 bytes that differ from the magic raise FORMAT_ERROR. -/
def Obligations.WrongMagicRaisesFormatError : Prop :=
  ∀ (i : Instr) (s : State) (m rest : List Byte), i = .chkMagic ∨ i = .copyMagic → Accepted s →
    m.length = 17 → s.inq = m ++ rest → m ≠ magic →
    ∃ n, execSteps i n s = .next (failedState s .formatError)

/-- R264, R205: a command with a fixed amount of input, or UNPACK, whose operand checks pass and whose input ends too
early raises TRUNCATED_STREAM, the magic commands FORMAT_ERROR. -/
def Obligations.ShortInputRaises : Prop :=
  ∀ (i : Instr) (s : State), Accepted s → s.inEof = true → operandsPass i s = true →
    (readsCounted i = true ∧ s.inq.length < inputBytes i s.latch) ∨
      (i = .unpack ∧ s.inq.length < s.latch.bl.toNat) →
    ∃ n, execSteps i n s = .next (failedState s (if readsMagic i then .formatError else .truncatedStream))

/-- R264: a BEN block cut short in its header or its payload, and a ben32 block cut inside a word or before its sentinel,
raise TRUNCATED_STREAM. -/
def Obligations.CutBlockRaisesTruncatedStream : Prop :=
  (∀ (i : Instr) (s : State), readsBenBlock i = true → Accepted s → s.inEof = true → s.inq ≠ [] →
    (s.inq.length < 6 ∨
      ∃ vb lb bl P, s.inq = hdrBytes vb lb bl ++ P ∧ P.length < bl.toNat) →
    ∃ n, execSteps i n s = .next (failedState s .truncatedStream)) ∧
  (∀ (i : Instr) (s : State) (runs : List Run) (part : List Byte), readsBen32 i = true → Accepted s →
    s.inEof = true → s.inq ≠ [] → s.inq = runs.flatMap recBytes ++ part → part.length < 4 →
    (∀ r ∈ runs, recBytes r ≠ [0, 0, 0, 0]) →
    ∃ n, execSteps i n s = .next (failedState s .truncatedStream))

/-- R153, R275: the checks of the commands that read labels, in order. -/
def Obligations.LabelCommandsCheckInOrder : Prop :=
  ∀ (i : Instr) (s : State) (xs : List Half) (rest : List Byte) (e : ErrorCode),
    i = .rleEnc ∨ i = .encBlock ∨ i = .encBen32 → Accepted s →
    s.latch.count.toNat = xs.length → s.inq = xs.flatMap labelBytes ++ rest →
    firstError
      [ ((rleEncode xs).any fun r => decide (65535 < r.2), .runOverflow),
        (decide (s.params.runBufDepth < (rleEncode xs).length), .runBufferFull),
        (i == .encBlock &&
          decide (2 ^ 32 - 1 < byteLen (rleEncode xs).length (widths ((rleEncode xs).map toRun)).1
            (widths ((rleEncode xs).map toRun)).2), .lengthOverflow) ] = some e →
    ∃ n, execSteps i n s = .next (failedState s e)

/-- R275: the checks of the commands that read counted run records, in order, each command with its own row. -/
def Obligations.RecordCommandsCheckInOrder : Prop :=
  ∀ (s : State) (runs : List Run) (rest : List Byte) (e : ErrorCode), Accepted s →
    s.latch.count.toNat = runs.length → s.inq = runs.flatMap recBytes ++ rest →
    let tooMany := decide (s.params.runBufDepth < s.latch.count.toNat)
    let zero := runs.any fun r => r.length == 0
    let vb := s.latch.vb.toNat
    let lb := s.latch.lb.toNat
    (firstError
        [(tooMany, .runBufferFull), (zero, .zeroLengthRun), (decide (2 ^ 32 - 1 < totalLength runs), .countOverflow)] =
          some e →
      ∃ n, execSteps .rleDec n s = .next (failedState s e)) ∧
    (firstError
        [ (zero, .zeroLengthRun),
          (decide (2 ^ 32 - 1 < byteLen runs.length (widths runs).1 (widths runs).2), .lengthOverflow) ] = some e →
      ∃ n, execSteps .width n s = .next (failedState s e)) ∧
    (firstError
        [ (decide (vb < 1 ∨ 16 < vb ∨ lb < 1 ∨ 16 < lb), .widthError), (tooMany, .runBufferFull),
          (zero, .zeroLengthRun),
          (runs.any fun r => decide (2 ^ vb ≤ r.value.toNat ∨ 2 ^ lb ≤ r.length.toNat), .fieldOverflow),
          (decide (2 ^ 32 - 1 < byteLen runs.length vb lb), .lengthOverflow) ] = some e →
      ∃ n, execSteps .pack n s = .next (failedState s e)) ∧
    (firstError [(tooMany, .runBufferFull), (zero, .zeroLengthRun)] = some e →
      ∃ n, execSteps .runsToBen32 n s = .next (failedState s e))

/-- R274 tier 1: WIDTH_ERROR on the operands and RUN_BUFFER_FULL on COUNT are raised by the first engine step, whatever
IN holds. That these checks and the legality check of R123 are one step is the model's choice (log 3). -/
def Obligations.OperandChecksComeBeforeInput : Prop :=
  ∀ s : State, Accepted s →
    let badWidths := s.latch.vb.toNat < 1 ∨ 16 < s.latch.vb.toNat ∨ s.latch.lb.toNat < 1 ∨ 16 < s.latch.lb.toNat
    let tooMany := s.params.runBufDepth < s.latch.count.toNat
    (badWidths → exec .pack s = .next (failedState s .widthError)) ∧
    (badWidths → exec .unpack s = .next (failedState s .widthError)) ∧
    (¬ badWidths → tooMany → exec .pack s = .next (failedState s .runBufferFull)) ∧
    (tooMany → exec .rleDec s = .next (failedState s .runBufferFull)) ∧
    (tooMany → exec .runsToBen32 s = .next (failedState s .runBufferFull))

/-- R275, R177: the checks of UNPACK on its payload, in order. -/
def Obligations.UnpackChecksInOrder : Prop :=
  ∀ (s : State) (P rest : List Byte) (e : ErrorCode), Accepted s →
    s.latch.bl.toNat = P.length → s.inq = P ++ rest →
    let vb := s.latch.vb.toNat
    let lb := s.latch.lb.toNat
    let runs := (parsePairs P vb lb).1
    let padding := (parsePairs P vb lb).2
    firstError
      [ (decide (vb < 1 ∨ 16 < vb ∨ lb < 1 ∨ 16 < lb), .widthError),
        (s.latch.strict && padding.any id, .payloadError),
        (s.latch.strict && decide (8 ≤ padding.length), .payloadError),
        (s.latch.strict && !maximalRuns runs, .payloadError),
        (s.latch.strict && decide (widths runs ≠ (vb, lb)), .widthError),
        (decide (s.params.runBufDepth < runs.length), .runBufferFull) ] = some e →
    ∃ n, execSteps .unpack n s = .next (failedState s e)

/-- R275, R177, R202: the checks of DEC_BLOCK and BLOCK_TO_BEN32 on a whole block, in order. -/
def Obligations.BenBlockChecksInOrder : Prop :=
  ∀ (i : Instr) (s : State) (vbByte lbByte : Byte) (bl : Word) (P rest : List Byte) (e : ErrorCode),
    i = .decBlock ∨ i = .blockToBen32 → Accepted s →
    bl.toNat = P.length → s.inq = hdrBytes vbByte lbByte bl ++ P ++ rest →
    let vb := vbByte.toNat
    let lb := lbByte.toNat
    let runs := (parsePairs P vb lb).1
    let padding := (parsePairs P vb lb).2
    firstError
      [ (decide (vb < 1 ∨ 16 < vb ∨ lb < 1 ∨ 16 < lb), .widthError),
        (s.latch.strict && padding.any id, .payloadError),
        (s.latch.strict && decide (8 ≤ padding.length), .payloadError),
        (s.latch.strict && !maximalRuns runs, .payloadError),
        (s.latch.strict && decide (widths runs ≠ (vb, lb)), .widthError),
        (decide (s.params.runBufDepth < runs.length), .runBufferFull),
        (i == .decBlock && decide (2 ^ 32 - 1 < totalLength runs), .countOverflow) ] = some e →
    ∃ n, execSteps i n s = .next (failedState s e)

/-- R275, R231: the checks of BEN32_TO_RUNS and BEN32_TO_BLOCK on a whole ben32 block, in order. -/
def Obligations.Ben32ChecksInOrder : Prop :=
  ∀ (i : Instr) (s : State) (runs : List Run) (rest : List Byte) (e : ErrorCode),
    i = .ben32ToRuns ∨ i = .ben32ToBlock → Accepted s →
    s.inq = runs.flatMap recBytes ++ [0, 0, 0, 0] ++ rest → (∀ r ∈ runs, recBytes r ≠ [0, 0, 0, 0]) →
    firstError
      [ (runs.any fun r => r.length == 0, .zeroLengthRun),
        (s.latch.strict && !maximalRuns runs, .payloadError),
        (decide (s.params.runBufDepth < runs.length), .runBufferFull),
        (i == .ben32ToBlock &&
          decide (2 ^ 32 - 1 < byteLen runs.length (widths runs).1 (widths runs).2), .lengthOverflow) ] = some e →
    ∃ n, execSteps i n s = .next (failedState s e)

/-! ### Invariants -/

/-- R25, R45: every step of the machine keeps the agreement of STATUS with the engine state and the invariants R25
states. -/
def Obligations.StepKeepsStatusInvariants : Prop :=
  ∀ s t : State, StatusAgrees s → step s = .next t → StatusAgrees t

/-- R40, R41, R43, R44, R45: every step of the machine keeps its whole invariant: STATUS, the capacities, the
accumulator's bounds, and the engine's position. -/
def Obligations.StepKeepsTheInvariant : Prop :=
  ∀ s t : State, Inv s → step s = .next t → Inv t

/-- The invariant holds at reset, for every legal choice of the parameters and for this platform's. -/
def Obligations.ResetMeetsTheInvariant : Prop :=
  Inv State.reset ∧ ∀ p : Params, p.wellFormed = true → Inv (State.resetOf p)

/-- The model's `Fault` is raised in no state that meets the invariant, and a step is refused only for a host access
outside the interface (R67): no command stops the machine (R260). -/
def Obligations.NoFaultUnderTheInvariant : Prop :=
  ∀ s : State, Inv s →
    (∃ t, step s = .next t) ∨
      ∃ a ts why, s.turns = .access a :: ts ∧ a.problem s.params.base = some why ∧ step s = .refused (.badAccess why)

/-! ### Laws of the codec -/

/-- R157: run-length decoding undoes encoding; the runs are maximal, at least 1 long, and their lengths sum to the number
of labels. -/
def Obligations.RleDecodeUndoesEncode : Prop :=
  ∀ xs : List Half,
    rleExpand (rleEncode xs) = xs ∧
    (∀ (k : Nat) (a b : Half × Nat), (rleEncode xs)[k]? = some a → (rleEncode xs)[k + 1]? = some b → a.1 ≠ b.1) ∧
    (∀ r ∈ rleEncode xs, 1 ≤ r.2) ∧ ((rleEncode xs).map fun r => r.2).sum = xs.length

/-- R180: unpacking undoes packing; under STRICT it does so for maximal runs with their minimal widths, and raises
PAYLOAD_ERROR or WIDTH_ERROR otherwise; the payload has the length of R172 and fewer than 8 padding bits, all zero;
`widths` is the least pair of widths, each at least 1, that the runs fit. -/
def Obligations.UnpackUndoesPack : Prop :=
  ∀ (runs : List Run) (vb lb : Nat), widthsLegal vb lb = true →
    (∀ r ∈ runs, r.value.toNat < 2 ^ vb ∧ r.length.toNat < 2 ^ lb ∧ r.length ≠ 0) →
    unpack (pack runs vb lb) vb lb false = .ok runs ∧
    unpack (pack runs vb lb) vb lb true =
      (if maximalRuns runs = false then .error .payloadError
       else if widths runs ≠ (vb, lb) then .error .widthError
       else .ok runs) ∧
    (pack runs vb lb).length = byteLen runs.length vb lb ∧
    bitString (pack runs vb lb) =
      packBits vb lb runs ++ List.replicate (8 * byteLen runs.length vb lb - runs.length * (vb + lb)) false ∧
    8 * byteLen runs.length vb lb - runs.length * (vb + lb) < 8 ∧
    (1 ≤ (widths runs).1 ∧ 1 ≤ (widths runs).2 ∧
      (∀ r ∈ runs, r.value.toNat < 2 ^ (widths runs).1 ∧ r.length.toNat < 2 ^ (widths runs).2) ∧
      (widths runs).1 ≤ vb ∧ (widths runs).2 ≤ lb)

/-- R179: taking the payload bytes one at a time through the accumulator returns the same runs and raises the same code
as `unpack` (R178), for every payload and all widths, legal or not. That the unpacker works on the fly is the model's
choice (log 5). -/
def Obligations.OnTheFlyUnpackerAgrees : Prop :=
  ∀ (P : List Byte) (vb lb : Byte) (bl : Word) (strict : Bool),
    let r := P.foldl (fun x b => takePayloadByte b x.1 x.2.1 x.2.2) (Payload.begin vb lb bl, (0 : BitVec 23), 0)
    r.1.unpacked strict r.2.1 r.2.2 = unpack P vb.toNat lb.toNat strict

/-- R209 law 4, on payloads and headers: under STRICT a block that is accepted is the encoding of the labels it decodes to
(whose runs fit 16 bits and are the runs it gave), and the encoding of any labels whose runs fit 16 bits is accepted and
decodes to those labels. -/
def Obligations.StrictDecodingIsCanonical : Prop :=
  ∀ (vb lb : Byte) (bl : Word) (P : List Byte), bl.toNat = P.length →
    (∀ runs, unpack P vb.toNat lb.toNat true = .ok runs →
      (∀ r ∈ rleEncode (rleDecode runs), r.2 ≤ 65535) ∧ sampleRuns (rleDecode runs) = runs ∧
        hdrBytes vb lb bl ++ P = encodeBlock (sampleRuns (rleDecode runs))) ∧
    (∀ xs : List Half, (∀ r ∈ rleEncode xs, r.2 ≤ 65535) →
      hdrBytes vb lb bl ++ P = encodeBlock (sampleRuns xs) →
      unpack P vb.toNat lb.toNat true = .ok (sampleRuns xs) ∧ rleDecode (sampleRuns xs) = xs)

/-- R209 law 1: `decodeFile(encodeFile(samples)) = samples`, with STRICT = 1 or 0, for every RUN_BUF_DEPTH and all samples
the block can encode with it (`encodable`: runs at most 65535 long, at most RUN_BUF_DEPTH of them, a number of labels that
COUNT holds, a payload length that its field holds). The pure functions encodeFile and decodeFile stand for the host
sequences of R207 and R208: that is the model's choice (log 13). -/
def Obligations.DecodeFileUndoesEncodeFile : Prop :=
  ∀ (samples : List (List Half)) (depth : Nat) (strict : Bool), (∀ xs ∈ samples, encodable depth xs = true) →
    decodeFile depth strict (encodeFile samples) = .ok samples
end

