-- ==== Sys2Proof/Laws/Codec.lean ====
section
/-! SUPPORT. Small laws of the stream forms and of the bit strings: lengths, and reading back what a form wrote. -/

namespace Sys2Proof.Machine

open Sys2Proof

/-! ### Lengths -/

@[simp] theorem labelBytes_length (x : Half) : (labelBytes x).length = 2 := rfl

@[simp] theorem recBytes_length (r : Run) : (recBytes r).length = 4 := rfl

@[simp] theorem wordBytes_length (x : Word) : (wordBytes x).length = 4 := rfl

@[simp] theorem hdrBytes_length (vb lb : Byte) (bl : Word) : (hdrBytes vb lb bl).length = 6 := rfl

@[simp] theorem magic_length : magic.length = 17 := rfl

@[simp] theorem sentinel_length : sentinel.length = 4 := rfl

@[simp] theorem bitsOf_length (w x : Nat) : (bitsOf w x).length = w := by
  induction w with
  | zero => rfl
  | succ w ih => simp [bitsOf, ih]

theorem flatMap_labelBytes_length (xs : List Half) : (xs.flatMap labelBytes).length = 2 * xs.length := by
  induction xs with
  | nil => rfl
  | cons x xs ih => simp [ih]; omega

theorem flatMap_recBytes_length (runs : List Run) : (runs.flatMap recBytes).length = 4 * runs.length := by
  induction runs with
  | nil => rfl
  | cons r rs ih => simp [ih]; omega

theorem ben32Block_length (runs : List Run) : (ben32Block runs).length = 4 * runs.length + 4 := by
  simp only [ben32Block, List.length_append, flatMap_recBytes_length, sentinel_length]

theorem packBits_length (vb lb : Nat) (runs : List Run) :
    (packBits vb lb runs).length = runs.length * (vb + lb) := by
  induction runs with
  | nil => simp [packBits]
  | cons r rs ih =>
    simp only [packBits, List.flatMap_cons, List.length_append, bitsOf_length, List.length_cons] at ih ⊢
    rw [ih]; ring

theorem bitString_length (P : List Byte) : (bitString P).length = 8 * P.length := by
  induction P with
  | nil => rfl
  | cons b P ih =>
    simp only [bitString, List.flatMap_cons, List.length_append, bitsOf_length, List.length_cons] at ih ⊢
    rw [ih]; ring

/-! ### Reading back -/

@[simp] theorem halfOf_bytes (x : Half) : halfOf (x.extractLsb' 8 8) (x.extractLsb' 0 8) = x := by
  apply BitVec.eq_of_getLsbD_eq
  intro i hi
  simp only [halfOf, BitVec.getLsbD_append, BitVec.getLsbD_extractLsb']
  by_cases h : i < 8
  · simp [h]
  · have h' : i - 8 < 8 := by omega
    have h'' : 8 + (i - 8) = i := by omega
    simp [h, h', h'']

theorem labelsOf_labelBytes (x : Half) (bs : List Byte) : labelsOf (labelBytes x ++ bs) = x :: labelsOf bs := by
  simp [labelBytes, labelsOf]

theorem recordsOf_recBytes (r : Run) (bs : List Byte) : recordsOf (recBytes r ++ bs) = r :: recordsOf bs := by
  simp [recBytes, labelBytes, recordsOf]

/-- The labels of the bytes of labels (R84, R152). -/
theorem labelsOf_flatMap (xs : List Half) : labelsOf (xs.flatMap labelBytes) = xs := by
  induction xs with
  | nil => rfl
  | cons x xs ih => rw [List.flatMap_cons, labelsOf_labelBytes, ih]

/-- The runs of the bytes of run records (R85, R154). -/
theorem recordsOf_flatMap (runs : List Run) : recordsOf (runs.flatMap recBytes) = runs := by
  induction runs with
  | nil => rfl
  | cons r rs ih => rw [List.flatMap_cons, recordsOf_recBytes, ih]

/-- The word of the four bytes of a word (R64). -/
theorem wordOf_bytes (x : Word) :
    wordOf (x.extractLsb' 24 8) (x.extractLsb' 16 8) (x.extractLsb' 8 8) (x.extractLsb' 0 8) = x := by
  apply BitVec.eq_of_getLsbD_eq
  intro i hi
  simp only [wordOf, BitVec.getLsbD_append, BitVec.getLsbD_extractLsb']
  by_cases h1 : i < 8
  · simp [h1]
  · by_cases h2 : i - 8 < 8
    · have : 8 + (i - 8) = i := by omega
      simp [h1, h2, this]
    · by_cases h3 : i - 8 - 8 < 8
      · have : 16 + (i - 8 - 8) = i := by omega
        simp [h1, h2, h3, this]
      · have h4 : i - 8 - 8 - 8 < 8 := by omega
        have : 24 + (i - 8 - 8 - 8) = i := by omega
        simp [h1, h2, h3, h4, this]

/-- A number below `2^w` is what its `w` bits spell (R11), after the bits of `acc`. -/
theorem foldl_bitsOf (w : Nat) : ∀ x acc : Nat, x < 2 ^ w →
    (bitsOf w x).foldl (fun n b => 2 * n + b.toNat) acc = acc * 2 ^ w + x := by
  induction w with
  | zero => intro x acc h; simp at h; simp [bitsOf, h]
  | succ w ih =>
    intro x acc h
    have hb : bitsOf w x = bitsOf w (x % 2 ^ w) := by
      have : ∀ k, k ≤ w → bitsOf k x = bitsOf k (x % 2 ^ w) := by
        intro k
        induction k with
        | zero => intro _; rfl
        | succ k ihk =>
          intro hk
          have hlt : k < w := by omega
          simp [bitsOf, ihk (by omega), Nat.testBit_mod_two_pow, hlt]
      exact this w (Nat.le_refl w)
    have hx : x = (x.testBit w).toNat * 2 ^ w + x % 2 ^ w := by
      have h2 : x / 2 ^ w < 2 := by
        rw [Nat.div_lt_iff_lt_mul (Nat.two_pow_pos w)]; rw [Nat.pow_succ] at h; omega
      have ht : (x.testBit w).toNat = x / 2 ^ w := by
        rw [Nat.testBit_eq_decide_div_mod_eq]
        have : x / 2 ^ w = 0 ∨ x / 2 ^ w = 1 := by generalize x / 2 ^ w = q at h2 ⊢; omega
        rcases this with h0 | h1
        · simp [h0]
        · simp [h1]
      rw [ht, Nat.mul_comm]; exact (Nat.div_add_mod x (2 ^ w)).symm
    simp only [bitsOf, List.foldl_cons]
    rw [hb, ih _ _ (Nat.mod_lt _ (Nat.two_pow_pos w))]
    conv_rhs => rw [hx]
    ring

/-- `val(bits_w(x)) = x` (R11). -/
theorem valOf_bitsOf (w x : Nat) (h : x < 2 ^ w) : valOf (bitsOf w x) = x := by
  rw [valOf, foldl_bitsOf w x 0 h]; simp

end Sys2Proof.Machine
end

