-- ==== Sys2Proof/Laws/State.lean ====
section
/-! SUPPORT. One lemma per field per update of the state, true by rfl, so that no proof unfolds a record update. -/

namespace Sys2Proof.Machine

open Sys2Proof

/-! ### `State.setPos` -/

@[simp] theorem State.setPos_params (s : State) (p : Pos) : (s.setPos p).params = s.params := rfl
@[simp] theorem State.setPos_strict (s : State) (p : Pos) : (s.setPos p).strict = s.strict := rfl
@[simp] theorem State.setPos_inEof (s : State) (p : Pos) : (s.setPos p).inEof = s.inEof := rfl
@[simp] theorem State.setPos_cmd (s : State) (p : Pos) : (s.setPos p).cmd = s.cmd := rfl
@[simp] theorem State.setPos_status (s : State) (p : Pos) : (s.setPos p).status = s.status := rfl
@[simp] theorem State.setPos_valueBits (s : State) (p : Pos) : (s.setPos p).valueBits = s.valueBits := rfl
@[simp] theorem State.setPos_lengthBits (s : State) (p : Pos) : (s.setPos p).lengthBits = s.lengthBits := rfl
@[simp] theorem State.setPos_byteLength (s : State) (p : Pos) : (s.setPos p).byteLength = s.byteLength := rfl
@[simp] theorem State.setPos_count (s : State) (p : Pos) : (s.setPos p).count = s.count := rfl
@[simp] theorem State.setPos_runCount (s : State) (p : Pos) : (s.setPos p).runCount = s.runCount := rfl
@[simp] theorem State.setPos_labelCount (s : State) (p : Pos) : (s.setPos p).labelCount = s.labelCount := rfl
@[simp] theorem State.setPos_blockCount (s : State) (p : Pos) : (s.setPos p).blockCount = s.blockCount := rfl
@[simp] theorem State.setPos_inq (s : State) (p : Pos) : (s.setPos p).inq = s.inq := rfl
@[simp] theorem State.setPos_outq (s : State) (p : Pos) : (s.setPos p).outq = s.outq := rfl
@[simp] theorem State.setPos_runBuf (s : State) (p : Pos) : (s.setPos p).runBuf = s.runBuf := rfl
@[simp] theorem State.setPos_acc (s : State) (p : Pos) : (s.setPos p).acc = s.acc := rfl
@[simp] theorem State.setPos_accN (s : State) (p : Pos) : (s.setPos p).accN = s.accN := rfl
@[simp] theorem State.setPos_eng (s : State) (p : Pos) : (s.setPos p).eng = s.eng := rfl
@[simp] theorem State.setPos_latch (s : State) (p : Pos) : (s.setPos p).latch = s.latch := rfl
@[simp] theorem State.setPos_pos (s : State) (p : Pos) : (s.setPos p).pos = p := rfl
@[simp] theorem State.setPos_turns (s : State) (p : Pos) : (s.setPos p).turns = s.turns := rfl
@[simp] theorem State.setPos_reads (s : State) (p : Pos) : (s.setPos p).reads = s.reads := rfl
@[simp] theorem State.setPos_freeCount (s : State) (p : Pos) : (s.setPos p).freeCount = s.freeCount := rfl

/-! ### `State.setTurns` -/

@[simp] theorem State.setTurns_params (s : State) (ts : List Turn) : (s.setTurns ts).params = s.params := rfl
@[simp] theorem State.setTurns_strict (s : State) (ts : List Turn) : (s.setTurns ts).strict = s.strict := rfl
@[simp] theorem State.setTurns_inEof (s : State) (ts : List Turn) : (s.setTurns ts).inEof = s.inEof := rfl
@[simp] theorem State.setTurns_cmd (s : State) (ts : List Turn) : (s.setTurns ts).cmd = s.cmd := rfl
@[simp] theorem State.setTurns_status (s : State) (ts : List Turn) : (s.setTurns ts).status = s.status := rfl
@[simp] theorem State.setTurns_valueBits (s : State) (ts : List Turn) : (s.setTurns ts).valueBits = s.valueBits := rfl
@[simp] theorem State.setTurns_lengthBits (s : State) (ts : List Turn) :
    (s.setTurns ts).lengthBits = s.lengthBits := rfl
@[simp] theorem State.setTurns_byteLength (s : State) (ts : List Turn) :
    (s.setTurns ts).byteLength = s.byteLength := rfl
@[simp] theorem State.setTurns_count (s : State) (ts : List Turn) : (s.setTurns ts).count = s.count := rfl
@[simp] theorem State.setTurns_runCount (s : State) (ts : List Turn) : (s.setTurns ts).runCount = s.runCount := rfl
@[simp] theorem State.setTurns_labelCount (s : State) (ts : List Turn) :
    (s.setTurns ts).labelCount = s.labelCount := rfl
@[simp] theorem State.setTurns_blockCount (s : State) (ts : List Turn) :
    (s.setTurns ts).blockCount = s.blockCount := rfl
@[simp] theorem State.setTurns_inq (s : State) (ts : List Turn) : (s.setTurns ts).inq = s.inq := rfl
@[simp] theorem State.setTurns_outq (s : State) (ts : List Turn) : (s.setTurns ts).outq = s.outq := rfl
@[simp] theorem State.setTurns_runBuf (s : State) (ts : List Turn) : (s.setTurns ts).runBuf = s.runBuf := rfl
@[simp] theorem State.setTurns_acc (s : State) (ts : List Turn) : (s.setTurns ts).acc = s.acc := rfl
@[simp] theorem State.setTurns_accN (s : State) (ts : List Turn) : (s.setTurns ts).accN = s.accN := rfl
@[simp] theorem State.setTurns_eng (s : State) (ts : List Turn) : (s.setTurns ts).eng = s.eng := rfl
@[simp] theorem State.setTurns_latch (s : State) (ts : List Turn) : (s.setTurns ts).latch = s.latch := rfl
@[simp] theorem State.setTurns_pos (s : State) (ts : List Turn) : (s.setTurns ts).pos = s.pos := rfl
@[simp] theorem State.setTurns_turns (s : State) (ts : List Turn) : (s.setTurns ts).turns = ts := rfl
@[simp] theorem State.setTurns_reads (s : State) (ts : List Turn) : (s.setTurns ts).reads = s.reads := rfl
@[simp] theorem State.setTurns_freeCount (s : State) (ts : List Turn) : (s.setTurns ts).freeCount = s.freeCount := rfl

/-! ### `State.recordRead` -/

@[simp] theorem State.recordRead_params (s : State) (v : Word) : (s.recordRead v).params = s.params := rfl
@[simp] theorem State.recordRead_strict (s : State) (v : Word) : (s.recordRead v).strict = s.strict := rfl
@[simp] theorem State.recordRead_inEof (s : State) (v : Word) : (s.recordRead v).inEof = s.inEof := rfl
@[simp] theorem State.recordRead_cmd (s : State) (v : Word) : (s.recordRead v).cmd = s.cmd := rfl
@[simp] theorem State.recordRead_status (s : State) (v : Word) : (s.recordRead v).status = s.status := rfl
@[simp] theorem State.recordRead_valueBits (s : State) (v : Word) : (s.recordRead v).valueBits = s.valueBits := rfl
@[simp] theorem State.recordRead_lengthBits (s : State) (v : Word) : (s.recordRead v).lengthBits = s.lengthBits := rfl
@[simp] theorem State.recordRead_byteLength (s : State) (v : Word) : (s.recordRead v).byteLength = s.byteLength := rfl
@[simp] theorem State.recordRead_count (s : State) (v : Word) : (s.recordRead v).count = s.count := rfl
@[simp] theorem State.recordRead_runCount (s : State) (v : Word) : (s.recordRead v).runCount = s.runCount := rfl
@[simp] theorem State.recordRead_labelCount (s : State) (v : Word) : (s.recordRead v).labelCount = s.labelCount := rfl
@[simp] theorem State.recordRead_blockCount (s : State) (v : Word) : (s.recordRead v).blockCount = s.blockCount := rfl
@[simp] theorem State.recordRead_inq (s : State) (v : Word) : (s.recordRead v).inq = s.inq := rfl
@[simp] theorem State.recordRead_outq (s : State) (v : Word) : (s.recordRead v).outq = s.outq := rfl
@[simp] theorem State.recordRead_runBuf (s : State) (v : Word) : (s.recordRead v).runBuf = s.runBuf := rfl
@[simp] theorem State.recordRead_acc (s : State) (v : Word) : (s.recordRead v).acc = s.acc := rfl
@[simp] theorem State.recordRead_accN (s : State) (v : Word) : (s.recordRead v).accN = s.accN := rfl
@[simp] theorem State.recordRead_eng (s : State) (v : Word) : (s.recordRead v).eng = s.eng := rfl
@[simp] theorem State.recordRead_latch (s : State) (v : Word) : (s.recordRead v).latch = s.latch := rfl
@[simp] theorem State.recordRead_pos (s : State) (v : Word) : (s.recordRead v).pos = s.pos := rfl
@[simp] theorem State.recordRead_turns (s : State) (v : Word) : (s.recordRead v).turns = s.turns := rfl
@[simp] theorem State.recordRead_reads (s : State) (v : Word) : (s.recordRead v).reads = s.reads ++ [v] := rfl
@[simp] theorem State.recordRead_freeCount (s : State) (v : Word) : (s.recordRead v).freeCount = s.freeCount := rfl

/-! ### `State.overrun` -/

@[simp] theorem State.overrun_params (s : State) : s.overrun.params = s.params := rfl
@[simp] theorem State.overrun_strict (s : State) : s.overrun.strict = s.strict := rfl
@[simp] theorem State.overrun_inEof (s : State) : s.overrun.inEof = s.inEof := rfl
@[simp] theorem State.overrun_cmd (s : State) : s.overrun.cmd = s.cmd := rfl
@[simp] theorem State.overrun_status (s : State) : s.overrun.status = s.status.overrun := rfl
@[simp] theorem State.overrun_valueBits (s : State) : s.overrun.valueBits = s.valueBits := rfl
@[simp] theorem State.overrun_lengthBits (s : State) : s.overrun.lengthBits = s.lengthBits := rfl
@[simp] theorem State.overrun_byteLength (s : State) : s.overrun.byteLength = s.byteLength := rfl
@[simp] theorem State.overrun_count (s : State) : s.overrun.count = s.count := rfl
@[simp] theorem State.overrun_runCount (s : State) : s.overrun.runCount = s.runCount := rfl
@[simp] theorem State.overrun_labelCount (s : State) : s.overrun.labelCount = s.labelCount := rfl
@[simp] theorem State.overrun_blockCount (s : State) : s.overrun.blockCount = s.blockCount := rfl
@[simp] theorem State.overrun_inq (s : State) : s.overrun.inq = s.inq := rfl
@[simp] theorem State.overrun_outq (s : State) : s.overrun.outq = s.outq := rfl
@[simp] theorem State.overrun_runBuf (s : State) : s.overrun.runBuf = s.runBuf := rfl
@[simp] theorem State.overrun_acc (s : State) : s.overrun.acc = s.acc := rfl
@[simp] theorem State.overrun_accN (s : State) : s.overrun.accN = s.accN := rfl
@[simp] theorem State.overrun_eng (s : State) : s.overrun.eng = s.eng := rfl
@[simp] theorem State.overrun_latch (s : State) : s.overrun.latch = s.latch := rfl
@[simp] theorem State.overrun_pos (s : State) : s.overrun.pos = s.pos := rfl
@[simp] theorem State.overrun_turns (s : State) : s.overrun.turns = s.turns := rfl
@[simp] theorem State.overrun_reads (s : State) : s.overrun.reads = s.reads := rfl
@[simp] theorem State.overrun_freeCount (s : State) : s.overrun.freeCount = s.freeCount := rfl

/-! ### `State.setIn` -/

@[simp] theorem State.setIn_params (s : State) (rest : List Byte) : (s.setIn rest).params = s.params := rfl
@[simp] theorem State.setIn_strict (s : State) (rest : List Byte) : (s.setIn rest).strict = s.strict := rfl
@[simp] theorem State.setIn_inEof (s : State) (rest : List Byte) : (s.setIn rest).inEof = s.inEof := rfl
@[simp] theorem State.setIn_cmd (s : State) (rest : List Byte) : (s.setIn rest).cmd = s.cmd := rfl
@[simp] theorem State.setIn_status (s : State) (rest : List Byte) : (s.setIn rest).status = s.status := rfl
@[simp] theorem State.setIn_valueBits (s : State) (rest : List Byte) : (s.setIn rest).valueBits = s.valueBits := rfl
@[simp] theorem State.setIn_lengthBits (s : State) (rest : List Byte) : (s.setIn rest).lengthBits = s.lengthBits := rfl
@[simp] theorem State.setIn_byteLength (s : State) (rest : List Byte) : (s.setIn rest).byteLength = s.byteLength := rfl
@[simp] theorem State.setIn_count (s : State) (rest : List Byte) : (s.setIn rest).count = s.count := rfl
@[simp] theorem State.setIn_runCount (s : State) (rest : List Byte) : (s.setIn rest).runCount = s.runCount := rfl
@[simp] theorem State.setIn_labelCount (s : State) (rest : List Byte) : (s.setIn rest).labelCount = s.labelCount := rfl
@[simp] theorem State.setIn_blockCount (s : State) (rest : List Byte) : (s.setIn rest).blockCount = s.blockCount := rfl
@[simp] theorem State.setIn_inq (s : State) (rest : List Byte) : (s.setIn rest).inq = rest := rfl
@[simp] theorem State.setIn_outq (s : State) (rest : List Byte) : (s.setIn rest).outq = s.outq := rfl
@[simp] theorem State.setIn_runBuf (s : State) (rest : List Byte) : (s.setIn rest).runBuf = s.runBuf := rfl
@[simp] theorem State.setIn_acc (s : State) (rest : List Byte) : (s.setIn rest).acc = s.acc := rfl
@[simp] theorem State.setIn_accN (s : State) (rest : List Byte) : (s.setIn rest).accN = s.accN := rfl
@[simp] theorem State.setIn_eng (s : State) (rest : List Byte) : (s.setIn rest).eng = s.eng := rfl
@[simp] theorem State.setIn_latch (s : State) (rest : List Byte) : (s.setIn rest).latch = s.latch := rfl
@[simp] theorem State.setIn_pos (s : State) (rest : List Byte) : (s.setIn rest).pos = s.pos := rfl
@[simp] theorem State.setIn_turns (s : State) (rest : List Byte) : (s.setIn rest).turns = s.turns := rfl
@[simp] theorem State.setIn_reads (s : State) (rest : List Byte) : (s.setIn rest).reads = s.reads := rfl
@[simp] theorem State.setIn_freeCount (s : State) (rest : List Byte) : (s.setIn rest).freeCount = s.freeCount := rfl

/-! ### `State.putOut` -/

@[simp] theorem State.putOut_params (s : State) (b : Byte) : (s.putOut b).params = s.params := rfl
@[simp] theorem State.putOut_strict (s : State) (b : Byte) : (s.putOut b).strict = s.strict := rfl
@[simp] theorem State.putOut_inEof (s : State) (b : Byte) : (s.putOut b).inEof = s.inEof := rfl
@[simp] theorem State.putOut_cmd (s : State) (b : Byte) : (s.putOut b).cmd = s.cmd := rfl
@[simp] theorem State.putOut_status (s : State) (b : Byte) : (s.putOut b).status = s.status := rfl
@[simp] theorem State.putOut_valueBits (s : State) (b : Byte) : (s.putOut b).valueBits = s.valueBits := rfl
@[simp] theorem State.putOut_lengthBits (s : State) (b : Byte) : (s.putOut b).lengthBits = s.lengthBits := rfl
@[simp] theorem State.putOut_byteLength (s : State) (b : Byte) : (s.putOut b).byteLength = s.byteLength := rfl
@[simp] theorem State.putOut_count (s : State) (b : Byte) : (s.putOut b).count = s.count := rfl
@[simp] theorem State.putOut_runCount (s : State) (b : Byte) : (s.putOut b).runCount = s.runCount := rfl
@[simp] theorem State.putOut_labelCount (s : State) (b : Byte) : (s.putOut b).labelCount = s.labelCount := rfl
@[simp] theorem State.putOut_blockCount (s : State) (b : Byte) : (s.putOut b).blockCount = s.blockCount := rfl
@[simp] theorem State.putOut_inq (s : State) (b : Byte) : (s.putOut b).inq = s.inq := rfl
@[simp] theorem State.putOut_outq (s : State) (b : Byte) : (s.putOut b).outq = s.outq ++ [b] := rfl
@[simp] theorem State.putOut_runBuf (s : State) (b : Byte) : (s.putOut b).runBuf = s.runBuf := rfl
@[simp] theorem State.putOut_acc (s : State) (b : Byte) : (s.putOut b).acc = s.acc := rfl
@[simp] theorem State.putOut_accN (s : State) (b : Byte) : (s.putOut b).accN = s.accN := rfl
@[simp] theorem State.putOut_eng (s : State) (b : Byte) : (s.putOut b).eng = s.eng := rfl
@[simp] theorem State.putOut_latch (s : State) (b : Byte) : (s.putOut b).latch = s.latch := rfl
@[simp] theorem State.putOut_pos (s : State) (b : Byte) : (s.putOut b).pos = s.pos := rfl
@[simp] theorem State.putOut_turns (s : State) (b : Byte) : (s.putOut b).turns = s.turns := rfl
@[simp] theorem State.putOut_reads (s : State) (b : Byte) : (s.putOut b).reads = s.reads := rfl
@[simp] theorem State.putOut_freeCount (s : State) (b : Byte) : (s.putOut b).freeCount = s.freeCount := rfl

/-! ### `State.setAcc` -/

@[simp] theorem State.setAcc_params (s : State) (a : BitVec 23) (n : Nat) : (s.setAcc a n).params = s.params := rfl
@[simp] theorem State.setAcc_strict (s : State) (a : BitVec 23) (n : Nat) : (s.setAcc a n).strict = s.strict := rfl
@[simp] theorem State.setAcc_inEof (s : State) (a : BitVec 23) (n : Nat) : (s.setAcc a n).inEof = s.inEof := rfl
@[simp] theorem State.setAcc_cmd (s : State) (a : BitVec 23) (n : Nat) : (s.setAcc a n).cmd = s.cmd := rfl
@[simp] theorem State.setAcc_status (s : State) (a : BitVec 23) (n : Nat) : (s.setAcc a n).status = s.status := rfl
@[simp] theorem State.setAcc_valueBits (s : State) (a : BitVec 23) (n : Nat) :
    (s.setAcc a n).valueBits = s.valueBits := rfl
@[simp] theorem State.setAcc_lengthBits (s : State) (a : BitVec 23) (n : Nat) :
    (s.setAcc a n).lengthBits = s.lengthBits := rfl
@[simp] theorem State.setAcc_byteLength (s : State) (a : BitVec 23) (n : Nat) :
    (s.setAcc a n).byteLength = s.byteLength := rfl
@[simp] theorem State.setAcc_count (s : State) (a : BitVec 23) (n : Nat) : (s.setAcc a n).count = s.count := rfl
@[simp] theorem State.setAcc_runCount (s : State) (a : BitVec 23) (n : Nat) :
    (s.setAcc a n).runCount = s.runCount := rfl
@[simp] theorem State.setAcc_labelCount (s : State) (a : BitVec 23) (n : Nat) :
    (s.setAcc a n).labelCount = s.labelCount := rfl
@[simp] theorem State.setAcc_blockCount (s : State) (a : BitVec 23) (n : Nat) :
    (s.setAcc a n).blockCount = s.blockCount := rfl
@[simp] theorem State.setAcc_inq (s : State) (a : BitVec 23) (n : Nat) : (s.setAcc a n).inq = s.inq := rfl
@[simp] theorem State.setAcc_outq (s : State) (a : BitVec 23) (n : Nat) : (s.setAcc a n).outq = s.outq := rfl
@[simp] theorem State.setAcc_runBuf (s : State) (a : BitVec 23) (n : Nat) : (s.setAcc a n).runBuf = s.runBuf := rfl
@[simp] theorem State.setAcc_acc (s : State) (a : BitVec 23) (n : Nat) : (s.setAcc a n).acc = a := rfl
@[simp] theorem State.setAcc_accN (s : State) (a : BitVec 23) (n : Nat) : (s.setAcc a n).accN = n := rfl
@[simp] theorem State.setAcc_eng (s : State) (a : BitVec 23) (n : Nat) : (s.setAcc a n).eng = s.eng := rfl
@[simp] theorem State.setAcc_latch (s : State) (a : BitVec 23) (n : Nat) : (s.setAcc a n).latch = s.latch := rfl
@[simp] theorem State.setAcc_pos (s : State) (a : BitVec 23) (n : Nat) : (s.setAcc a n).pos = s.pos := rfl
@[simp] theorem State.setAcc_turns (s : State) (a : BitVec 23) (n : Nat) : (s.setAcc a n).turns = s.turns := rfl
@[simp] theorem State.setAcc_reads (s : State) (a : BitVec 23) (n : Nat) : (s.setAcc a n).reads = s.reads := rfl
@[simp] theorem State.setAcc_freeCount (s : State) (a : BitVec 23) (n : Nat) :
    (s.setAcc a n).freeCount = s.freeCount := rfl

/-! ### `State.popOut` -/

@[simp] theorem State.popOut_params (s : State) : s.popOut.params = s.params := rfl
@[simp] theorem State.popOut_strict (s : State) : s.popOut.strict = s.strict := rfl
@[simp] theorem State.popOut_inEof (s : State) : s.popOut.inEof = s.inEof := rfl
@[simp] theorem State.popOut_cmd (s : State) : s.popOut.cmd = s.cmd := rfl
@[simp] theorem State.popOut_status (s : State) : s.popOut.status = s.status := rfl
@[simp] theorem State.popOut_valueBits (s : State) : s.popOut.valueBits = s.valueBits := rfl
@[simp] theorem State.popOut_lengthBits (s : State) : s.popOut.lengthBits = s.lengthBits := rfl
@[simp] theorem State.popOut_byteLength (s : State) : s.popOut.byteLength = s.byteLength := rfl
@[simp] theorem State.popOut_count (s : State) : s.popOut.count = s.count := rfl
@[simp] theorem State.popOut_runCount (s : State) : s.popOut.runCount = s.runCount := rfl
@[simp] theorem State.popOut_labelCount (s : State) : s.popOut.labelCount = s.labelCount := rfl
@[simp] theorem State.popOut_blockCount (s : State) : s.popOut.blockCount = s.blockCount := rfl
@[simp] theorem State.popOut_inq (s : State) : s.popOut.inq = s.inq := rfl
@[simp] theorem State.popOut_outq (s : State) : s.popOut.outq = s.outq.tail := rfl
@[simp] theorem State.popOut_runBuf (s : State) : s.popOut.runBuf = s.runBuf := rfl
@[simp] theorem State.popOut_acc (s : State) : s.popOut.acc = s.acc := rfl
@[simp] theorem State.popOut_accN (s : State) : s.popOut.accN = s.accN := rfl
@[simp] theorem State.popOut_eng (s : State) : s.popOut.eng = s.eng := rfl
@[simp] theorem State.popOut_latch (s : State) : s.popOut.latch = s.latch := rfl
@[simp] theorem State.popOut_pos (s : State) : s.popOut.pos = s.pos := rfl
@[simp] theorem State.popOut_turns (s : State) : s.popOut.turns = s.turns := rfl
@[simp] theorem State.popOut_reads (s : State) : s.popOut.reads = s.reads := rfl
@[simp] theorem State.popOut_freeCount (s : State) : s.popOut.freeCount = s.freeCount := rfl

/-! ### `State.raise` -/

@[simp] theorem State.raise_params (s : State) (e : ErrorCode) : (s.raise e).params = s.params := rfl
@[simp] theorem State.raise_strict (s : State) (e : ErrorCode) : (s.raise e).strict = s.strict := rfl
@[simp] theorem State.raise_inEof (s : State) (e : ErrorCode) : (s.raise e).inEof = s.inEof := rfl
@[simp] theorem State.raise_cmd (s : State) (e : ErrorCode) : (s.raise e).cmd = s.cmd := rfl
@[simp] theorem State.raise_status (s : State) (e : ErrorCode) : (s.raise e).status = s.status.raise e := rfl
@[simp] theorem State.raise_valueBits (s : State) (e : ErrorCode) : (s.raise e).valueBits = s.valueBits := rfl
@[simp] theorem State.raise_lengthBits (s : State) (e : ErrorCode) : (s.raise e).lengthBits = s.lengthBits := rfl
@[simp] theorem State.raise_byteLength (s : State) (e : ErrorCode) : (s.raise e).byteLength = s.byteLength := rfl
@[simp] theorem State.raise_count (s : State) (e : ErrorCode) : (s.raise e).count = s.count := rfl
@[simp] theorem State.raise_runCount (s : State) (e : ErrorCode) : (s.raise e).runCount = s.runCount := rfl
@[simp] theorem State.raise_labelCount (s : State) (e : ErrorCode) : (s.raise e).labelCount = s.labelCount := rfl
@[simp] theorem State.raise_blockCount (s : State) (e : ErrorCode) : (s.raise e).blockCount = s.blockCount := rfl
@[simp] theorem State.raise_inq (s : State) (e : ErrorCode) : (s.raise e).inq = [] := rfl
@[simp] theorem State.raise_outq (s : State) (e : ErrorCode) : (s.raise e).outq = s.outq := rfl
@[simp] theorem State.raise_runBuf (s : State) (e : ErrorCode) : (s.raise e).runBuf = [] := rfl
@[simp] theorem State.raise_acc (s : State) (e : ErrorCode) : (s.raise e).acc = 0 := rfl
@[simp] theorem State.raise_accN (s : State) (e : ErrorCode) : (s.raise e).accN = 0 := rfl
@[simp] theorem State.raise_eng (s : State) (e : ErrorCode) : (s.raise e).eng = .error := rfl
@[simp] theorem State.raise_latch (s : State) (e : ErrorCode) : (s.raise e).latch = s.latch := rfl
@[simp] theorem State.raise_pos (s : State) (e : ErrorCode) : (s.raise e).pos = .none := rfl
@[simp] theorem State.raise_turns (s : State) (e : ErrorCode) : (s.raise e).turns = s.turns := rfl
@[simp] theorem State.raise_reads (s : State) (e : ErrorCode) : (s.raise e).reads = s.reads := rfl
@[simp] theorem State.raise_freeCount (s : State) (e : ErrorCode) : (s.raise e).freeCount = s.freeCount := rfl

/-! ### `State.abort` -/

@[simp] theorem State.abort_params (s : State) : s.abort.params = s.params := rfl
@[simp] theorem State.abort_strict (s : State) : s.abort.strict = s.strict := rfl
@[simp] theorem State.abort_inEof (s : State) : s.abort.inEof = false := rfl
@[simp] theorem State.abort_cmd (s : State) : s.abort.cmd = s.cmd := rfl
@[simp] theorem State.abort_status (s : State) : s.abort.status = Status.zero := rfl
@[simp] theorem State.abort_valueBits (s : State) : s.abort.valueBits = s.valueBits := rfl
@[simp] theorem State.abort_lengthBits (s : State) : s.abort.lengthBits = s.lengthBits := rfl
@[simp] theorem State.abort_byteLength (s : State) : s.abort.byteLength = s.byteLength := rfl
@[simp] theorem State.abort_count (s : State) : s.abort.count = s.count := rfl
@[simp] theorem State.abort_runCount (s : State) : s.abort.runCount = s.runCount := rfl
@[simp] theorem State.abort_labelCount (s : State) : s.abort.labelCount = s.labelCount := rfl
@[simp] theorem State.abort_blockCount (s : State) : s.abort.blockCount = 0 := rfl
@[simp] theorem State.abort_inq (s : State) : s.abort.inq = [] := rfl
@[simp] theorem State.abort_outq (s : State) : s.abort.outq = [] := rfl
@[simp] theorem State.abort_runBuf (s : State) : s.abort.runBuf = [] := rfl
@[simp] theorem State.abort_acc (s : State) : s.abort.acc = 0 := rfl
@[simp] theorem State.abort_accN (s : State) : s.abort.accN = 0 := rfl
@[simp] theorem State.abort_eng (s : State) : s.abort.eng = .idle := rfl
@[simp] theorem State.abort_latch (s : State) : s.abort.latch = s.latch := rfl
@[simp] theorem State.abort_pos (s : State) : s.abort.pos = .none := rfl
@[simp] theorem State.abort_turns (s : State) : s.abort.turns = s.turns := rfl
@[simp] theorem State.abort_reads (s : State) : s.abort.reads = s.reads := rfl
@[simp] theorem State.abort_freeCount (s : State) : s.abort.freeCount = s.freeCount := rfl

/-! ### `State.accept` -/

@[simp] theorem State.accept_params (s : State) (v : Word) : (s.accept v).params = s.params := rfl
@[simp] theorem State.accept_strict (s : State) (v : Word) : (s.accept v).strict = s.strict := rfl
@[simp] theorem State.accept_inEof (s : State) (v : Word) : (s.accept v).inEof = s.inEof := rfl
@[simp] theorem State.accept_cmd (s : State) (v : Word) : (s.accept v).cmd = v := rfl
@[simp] theorem State.accept_status (s : State) (v : Word) : (s.accept v).status = s.status.accept := rfl
@[simp] theorem State.accept_valueBits (s : State) (v : Word) : (s.accept v).valueBits = s.valueBits := rfl
@[simp] theorem State.accept_lengthBits (s : State) (v : Word) : (s.accept v).lengthBits = s.lengthBits := rfl
@[simp] theorem State.accept_byteLength (s : State) (v : Word) : (s.accept v).byteLength = s.byteLength := rfl
@[simp] theorem State.accept_count (s : State) (v : Word) : (s.accept v).count = s.count := rfl
@[simp] theorem State.accept_runCount (s : State) (v : Word) : (s.accept v).runCount = s.runCount := rfl
@[simp] theorem State.accept_labelCount (s : State) (v : Word) : (s.accept v).labelCount = s.labelCount := rfl
@[simp] theorem State.accept_blockCount (s : State) (v : Word) : (s.accept v).blockCount = s.blockCount := rfl
@[simp] theorem State.accept_inq (s : State) (v : Word) : (s.accept v).inq = s.inq := rfl
@[simp] theorem State.accept_outq (s : State) (v : Word) : (s.accept v).outq = s.outq := rfl
@[simp] theorem State.accept_runBuf (s : State) (v : Word) : (s.accept v).runBuf = [] := rfl
@[simp] theorem State.accept_acc (s : State) (v : Word) : (s.accept v).acc = 0 := rfl
@[simp] theorem State.accept_accN (s : State) (v : Word) : (s.accept v).accN = 0 := rfl
@[simp] theorem State.accept_eng (s : State) (v : Word) : (s.accept v).eng = .busyInput := rfl
@[simp] theorem State.accept_latch (s : State) (v : Word) : (s.accept v).latch = s.latched v := rfl
@[simp] theorem State.accept_pos (s : State) (v : Word) : (s.accept v).pos = .start := rfl
@[simp] theorem State.accept_turns (s : State) (v : Word) : (s.accept v).turns = s.turns := rfl
@[simp] theorem State.accept_reads (s : State) (v : Word) : (s.accept v).reads = s.reads := rfl
@[simp] theorem State.accept_freeCount (s : State) (v : Word) : (s.accept v).freeCount = s.freeCount := rfl

/-! ### `State.complete` -/

@[simp] theorem State.complete_params (s : State) (u : Updates) : (s.complete u).params = s.params := rfl
@[simp] theorem State.complete_strict (s : State) (u : Updates) : (s.complete u).strict = s.strict := rfl
@[simp] theorem State.complete_inEof (s : State) (u : Updates) : (s.complete u).inEof = s.inEof := rfl
@[simp] theorem State.complete_cmd (s : State) (u : Updates) : (s.complete u).cmd = s.cmd := rfl
@[simp] theorem State.complete_status (s : State) (u : Updates) : (s.complete u).status = s.status.complete := rfl
@[simp] theorem State.complete_valueBits (s : State) (u : Updates) :
    (s.complete u).valueBits = u.valueBits.getD s.valueBits := rfl
@[simp] theorem State.complete_lengthBits (s : State) (u : Updates) :
    (s.complete u).lengthBits = u.lengthBits.getD s.lengthBits := rfl
@[simp] theorem State.complete_byteLength (s : State) (u : Updates) :
    (s.complete u).byteLength = u.byteLength.getD s.byteLength := rfl
@[simp] theorem State.complete_count (s : State) (u : Updates) : (s.complete u).count = s.count := rfl
@[simp] theorem State.complete_runCount (s : State) (u : Updates) :
    (s.complete u).runCount = u.runCount.getD s.runCount := rfl
@[simp] theorem State.complete_labelCount (s : State) (u : Updates) :
    (s.complete u).labelCount = u.labelCount.getD s.labelCount := rfl
@[simp] theorem State.complete_blockCount (s : State) (u : Updates) :
    (s.complete u).blockCount = if u.block then s.blockCount + 1 else s.blockCount := rfl
@[simp] theorem State.complete_inq (s : State) (u : Updates) : (s.complete u).inq = s.inq := rfl
@[simp] theorem State.complete_outq (s : State) (u : Updates) : (s.complete u).outq = s.outq := rfl
@[simp] theorem State.complete_runBuf (s : State) (u : Updates) : (s.complete u).runBuf = s.runBuf := rfl
@[simp] theorem State.complete_acc (s : State) (u : Updates) : (s.complete u).acc = s.acc := rfl
@[simp] theorem State.complete_accN (s : State) (u : Updates) : (s.complete u).accN = s.accN := rfl
@[simp] theorem State.complete_eng (s : State) (u : Updates) : (s.complete u).eng = .idle := rfl
@[simp] theorem State.complete_latch (s : State) (u : Updates) : (s.complete u).latch = s.latch := rfl
@[simp] theorem State.complete_pos (s : State) (u : Updates) : (s.complete u).pos = .none := rfl
@[simp] theorem State.complete_turns (s : State) (u : Updates) : (s.complete u).turns = s.turns := rfl
@[simp] theorem State.complete_reads (s : State) (u : Updates) : (s.complete u).reads = s.reads := rfl
@[simp] theorem State.complete_freeCount (s : State) (u : Updates) : (s.complete u).freeCount = s.freeCount := rfl

/-! ### `State.completeEnd` -/

@[simp] theorem State.completeEnd_params (s : State) : s.completeEnd.params = s.params := rfl
@[simp] theorem State.completeEnd_strict (s : State) : s.completeEnd.strict = s.strict := rfl
@[simp] theorem State.completeEnd_inEof (s : State) : s.completeEnd.inEof = false := rfl
@[simp] theorem State.completeEnd_cmd (s : State) : s.completeEnd.cmd = s.cmd := rfl
@[simp] theorem State.completeEnd_status (s : State) : s.completeEnd.status = s.status.completeEnd := rfl
@[simp] theorem State.completeEnd_valueBits (s : State) : s.completeEnd.valueBits = s.valueBits := rfl
@[simp] theorem State.completeEnd_lengthBits (s : State) : s.completeEnd.lengthBits = s.lengthBits := rfl
@[simp] theorem State.completeEnd_byteLength (s : State) : s.completeEnd.byteLength = s.byteLength := rfl
@[simp] theorem State.completeEnd_count (s : State) : s.completeEnd.count = s.count := rfl
@[simp] theorem State.completeEnd_runCount (s : State) : s.completeEnd.runCount = s.runCount := rfl
@[simp] theorem State.completeEnd_labelCount (s : State) : s.completeEnd.labelCount = s.labelCount := rfl
@[simp] theorem State.completeEnd_blockCount (s : State) : s.completeEnd.blockCount = s.blockCount := rfl
@[simp] theorem State.completeEnd_inq (s : State) : s.completeEnd.inq = s.inq := rfl
@[simp] theorem State.completeEnd_outq (s : State) : s.completeEnd.outq = s.outq := rfl
@[simp] theorem State.completeEnd_runBuf (s : State) : s.completeEnd.runBuf = s.runBuf := rfl
@[simp] theorem State.completeEnd_acc (s : State) : s.completeEnd.acc = s.acc := rfl
@[simp] theorem State.completeEnd_accN (s : State) : s.completeEnd.accN = s.accN := rfl
@[simp] theorem State.completeEnd_eng (s : State) : s.completeEnd.eng = .idle := rfl
@[simp] theorem State.completeEnd_latch (s : State) : s.completeEnd.latch = s.latch := rfl
@[simp] theorem State.completeEnd_pos (s : State) : s.completeEnd.pos = .none := rfl
@[simp] theorem State.completeEnd_turns (s : State) : s.completeEnd.turns = s.turns := rfl
@[simp] theorem State.completeEnd_reads (s : State) : s.completeEnd.reads = s.reads := rfl
@[simp] theorem State.completeEnd_freeCount (s : State) : s.completeEnd.freeCount = s.freeCount := rfl

/-! ### `State.enterOutput` -/

@[simp] theorem State.enterOutput_params (s : State) (p : Plan) : (s.enterOutput p).params = s.params := rfl
@[simp] theorem State.enterOutput_strict (s : State) (p : Plan) : (s.enterOutput p).strict = s.strict := rfl
@[simp] theorem State.enterOutput_inEof (s : State) (p : Plan) : (s.enterOutput p).inEof = s.inEof := rfl
@[simp] theorem State.enterOutput_cmd (s : State) (p : Plan) : (s.enterOutput p).cmd = s.cmd := rfl
@[simp] theorem State.enterOutput_status (s : State) (p : Plan) : (s.enterOutput p).status = s.status := rfl
@[simp] theorem State.enterOutput_valueBits (s : State) (p : Plan) : (s.enterOutput p).valueBits = s.valueBits := rfl
@[simp] theorem State.enterOutput_lengthBits (s : State) (p : Plan) : (s.enterOutput p).lengthBits = s.lengthBits := rfl
@[simp] theorem State.enterOutput_byteLength (s : State) (p : Plan) : (s.enterOutput p).byteLength = s.byteLength := rfl
@[simp] theorem State.enterOutput_count (s : State) (p : Plan) : (s.enterOutput p).count = s.count := rfl
@[simp] theorem State.enterOutput_runCount (s : State) (p : Plan) : (s.enterOutput p).runCount = s.runCount := rfl
@[simp] theorem State.enterOutput_labelCount (s : State) (p : Plan) : (s.enterOutput p).labelCount = s.labelCount := rfl
@[simp] theorem State.enterOutput_blockCount (s : State) (p : Plan) : (s.enterOutput p).blockCount = s.blockCount := rfl
@[simp] theorem State.enterOutput_inq (s : State) (p : Plan) : (s.enterOutput p).inq = s.inq := rfl
@[simp] theorem State.enterOutput_outq (s : State) (p : Plan) : (s.enterOutput p).outq = s.outq := rfl
@[simp] theorem State.enterOutput_runBuf (s : State) (p : Plan) : (s.enterOutput p).runBuf = p.runs := rfl
@[simp] theorem State.enterOutput_acc (s : State) (p : Plan) : (s.enterOutput p).acc = 0 := rfl
@[simp] theorem State.enterOutput_accN (s : State) (p : Plan) : (s.enterOutput p).accN = 0 := rfl
@[simp] theorem State.enterOutput_eng (s : State) (p : Plan) : (s.enterOutput p).eng = .busyOutput := rfl
@[simp] theorem State.enterOutput_latch (s : State) (p : Plan) : (s.enterOutput p).latch = s.latch := rfl
@[simp] theorem State.enterOutput_pos (s : State) (p : Plan) :
    (s.enterOutput p).pos = .writing { items := p.lead.map Item.byte, form := p.form, next := 0, closed := false, upd := p.upd } := rfl
@[simp] theorem State.enterOutput_turns (s : State) (p : Plan) : (s.enterOutput p).turns = s.turns := rfl
@[simp] theorem State.enterOutput_reads (s : State) (p : Plan) : (s.enterOutput p).reads = s.reads := rfl
@[simp] theorem State.enterOutput_freeCount (s : State) (p : Plan) : (s.enterOutput p).freeCount = s.freeCount := rfl

/-! ### `State.resetEvent` -/

@[simp] theorem State.resetEvent_params (s : State) : s.resetEvent.params = s.params := rfl
@[simp] theorem State.resetEvent_strict (s : State) : s.resetEvent.strict = true := rfl
@[simp] theorem State.resetEvent_inEof (s : State) : s.resetEvent.inEof = false := rfl
@[simp] theorem State.resetEvent_cmd (s : State) : s.resetEvent.cmd = 0 := rfl
@[simp] theorem State.resetEvent_status (s : State) : s.resetEvent.status = Status.zero := rfl
@[simp] theorem State.resetEvent_valueBits (s : State) : s.resetEvent.valueBits = 0 := rfl
@[simp] theorem State.resetEvent_lengthBits (s : State) : s.resetEvent.lengthBits = 0 := rfl
@[simp] theorem State.resetEvent_byteLength (s : State) : s.resetEvent.byteLength = 0 := rfl
@[simp] theorem State.resetEvent_count (s : State) : s.resetEvent.count = 0 := rfl
@[simp] theorem State.resetEvent_runCount (s : State) : s.resetEvent.runCount = 0 := rfl
@[simp] theorem State.resetEvent_labelCount (s : State) : s.resetEvent.labelCount = 0 := rfl
@[simp] theorem State.resetEvent_blockCount (s : State) : s.resetEvent.blockCount = 0 := rfl
@[simp] theorem State.resetEvent_inq (s : State) : s.resetEvent.inq = [] := rfl
@[simp] theorem State.resetEvent_outq (s : State) : s.resetEvent.outq = [] := rfl
@[simp] theorem State.resetEvent_runBuf (s : State) : s.resetEvent.runBuf = [] := rfl
@[simp] theorem State.resetEvent_acc (s : State) : s.resetEvent.acc = 0 := rfl
@[simp] theorem State.resetEvent_accN (s : State) : s.resetEvent.accN = 0 := rfl
@[simp] theorem State.resetEvent_eng (s : State) : s.resetEvent.eng = .idle := rfl
@[simp] theorem State.resetEvent_latch (s : State) : s.resetEvent.latch = Latch.zero := rfl
@[simp] theorem State.resetEvent_pos (s : State) : s.resetEvent.pos = .none := rfl
@[simp] theorem State.resetEvent_turns (s : State) : s.resetEvent.turns = s.turns := rfl
@[simp] theorem State.resetEvent_reads (s : State) : s.resetEvent.reads = s.reads := rfl
@[simp] theorem State.resetEvent_freeCount (s : State) : s.resetEvent.freeCount = s.freeCount := rfl

/-! ### STATUS -/

@[simp] theorem Status.accept_busy (f : Status) : f.accept.busy = true := rfl
@[simp] theorem Status.accept_done (f : Status) : f.accept.done = false := rfl
@[simp] theorem Status.accept_err (f : Status) : f.accept.err = f.err := rfl
@[simp] theorem Status.accept_atEnd (f : Status) : f.accept.atEnd = false := rfl
@[simp] theorem Status.accept_ovr (f : Status) : f.accept.ovr = f.ovr := rfl
@[simp] theorem Status.accept_errCode (f : Status) : f.accept.errCode = f.errCode := rfl

@[simp] theorem Status.complete_busy (f : Status) : f.complete.busy = false := rfl
@[simp] theorem Status.complete_done (f : Status) : f.complete.done = true := rfl
@[simp] theorem Status.complete_err (f : Status) : f.complete.err = f.err := rfl
@[simp] theorem Status.complete_atEnd (f : Status) : f.complete.atEnd = f.atEnd := rfl
@[simp] theorem Status.complete_ovr (f : Status) : f.complete.ovr = f.ovr := rfl
@[simp] theorem Status.complete_errCode (f : Status) : f.complete.errCode = f.errCode := rfl

@[simp] theorem Status.completeEnd_busy (f : Status) : f.completeEnd.busy = false := rfl
@[simp] theorem Status.completeEnd_done (f : Status) : f.completeEnd.done = true := rfl
@[simp] theorem Status.completeEnd_err (f : Status) : f.completeEnd.err = f.err := rfl
@[simp] theorem Status.completeEnd_atEnd (f : Status) : f.completeEnd.atEnd = true := rfl
@[simp] theorem Status.completeEnd_ovr (f : Status) : f.completeEnd.ovr = f.ovr := rfl
@[simp] theorem Status.completeEnd_errCode (f : Status) : f.completeEnd.errCode = f.errCode := rfl

@[simp] theorem Status.raise_busy (f : Status) (e : ErrorCode) : (f.raise e).busy = false := rfl
@[simp] theorem Status.raise_done (f : Status) (e : ErrorCode) : (f.raise e).done = f.done := rfl
@[simp] theorem Status.raise_err (f : Status) (e : ErrorCode) : (f.raise e).err = true := rfl
@[simp] theorem Status.raise_atEnd (f : Status) (e : ErrorCode) : (f.raise e).atEnd = f.atEnd := rfl
@[simp] theorem Status.raise_ovr (f : Status) (e : ErrorCode) : (f.raise e).ovr = f.ovr := rfl
@[simp] theorem Status.raise_errCode (f : Status) (e : ErrorCode) : (f.raise e).errCode = e.code := rfl

@[simp] theorem Status.overrun_busy (f : Status) : f.overrun.busy = f.busy := rfl
@[simp] theorem Status.overrun_done (f : Status) : f.overrun.done = f.done := rfl
@[simp] theorem Status.overrun_err (f : Status) : f.overrun.err = f.err := rfl
@[simp] theorem Status.overrun_atEnd (f : Status) : f.overrun.atEnd = f.atEnd := rfl
@[simp] theorem Status.overrun_ovr (f : Status) : f.overrun.ovr = true := rfl
@[simp] theorem Status.overrun_errCode (f : Status) : f.overrun.errCode = f.errCode := rfl

end Sys2Proof.Machine
end

