-- ==== Sys2Proof/Laws/Ops.lean ====
section
/-! SUPPORT. One lemma per shared operation that says once everything it can do; later proofs cite it instead of
unfolding the operation. -/

namespace Sys2Proof.Machine

open Sys2Proof

/-- `InRead()` (R124): a byte, the end of input, or a wait. -/
theorem inRead_cases (s : State) (onByte : Byte → State → State) (onEof : State → State) :
    (∃ b rest, s.inq = b :: rest ∧ s.inRead onByte onEof = onByte b (s.setIn rest)) ∨
    (s.inq = [] ∧ s.inEof = true ∧ s.inRead onByte onEof = onEof s) ∨
    (s.inq = [] ∧ s.inEof = false ∧ s.inRead onByte onEof = s) := by
  unfold State.inRead
  cases h : s.inq with
  | cons b rest => exact .inl ⟨b, rest, rfl, rfl⟩
  | nil => cases he : s.inEof <;> simp

theorem inRead_cons {s : State} {b : Byte} {rest : List Byte} (h : s.inq = b :: rest)
    (onByte : Byte → State → State) (onEof : State → State) :
    s.inRead onByte onEof = onByte b (s.setIn rest) := by simp [State.inRead, h]

theorem inRead_eof {s : State} (h : s.inq = []) (he : s.inEof = true)
    (onByte : Byte → State → State) (onEof : State → State) : s.inRead onByte onEof = onEof s := by
  simp [State.inRead, h, he]

theorem inRead_wait {s : State} (h : s.inq = []) (he : s.inEof = false)
    (onByte : Byte → State → State) (onEof : State → State) : s.inRead onByte onEof = s := by
  simp [State.inRead, h, he]

/-- `AtEnd()` (R124): more input, the end of input, or a wait. -/
theorem atEnd_cases (s : State) (onMore onEnd : State → State) :
    (s.inq ≠ [] ∧ s.atEnd onMore onEnd = onMore s) ∨
    (s.inq = [] ∧ s.inEof = true ∧ s.atEnd onMore onEnd = onEnd s) ∨
    (s.inq = [] ∧ s.inEof = false ∧ s.atEnd onMore onEnd = s) := by
  unfold State.atEnd
  cases h : s.inq with
  | cons b rest => simp
  | nil => cases he : s.inEof <;> simp

/-- `OutWrite(b)` (R125): the byte is appended where there is room, else the engine waits. -/
theorem outWrite_cases (s : State) (b : Byte) (next : State → State) :
    (s.outq.length < s.params.outDepth ∧ s.outWrite b next = next (s.putOut b)) ∨
    (s.params.outDepth ≤ s.outq.length ∧ s.outWrite b next = s) := by
  unfold State.outWrite
  split
  · exact .inl ⟨‹_›, rfl⟩
  · exact .inr ⟨Nat.le_of_not_lt ‹_›, rfl⟩

theorem outWrite_room {s : State} (h : s.outq.length < s.params.outDepth) (b : Byte) (next : State → State) :
    s.outWrite b next = next (s.putOut b) := by simp [State.outWrite, h]

theorem outWrite_full {s : State} (h : s.params.outDepth ≤ s.outq.length) (b : Byte) (next : State → State) :
    s.outWrite b next = s := by simp [State.outWrite, Nat.not_lt.mpr h]

/-- One engine step of the output phase: the packer emits a byte, an item is done, a run or the closing items are taken
up, or the command completes. -/
theorem writeStep_cases (s : State) (o : Output) :
    (8 ≤ s.accN ∧
      s.writeStep o =
        s.outWrite (accByte s.acc s.accN) fun t => t.setAcc (accDrop s.acc s.accN 8) (s.accN - 8)) ∨
    (s.accN < 8 ∧
      ((∃ b rest, o.items = .byte b :: rest ∧
          s.writeStep o = s.outWrite b fun t => t.setPos (.writing { o with items := rest })) ∨
       (∃ x w rest, o.items = .push x w :: rest ∧
          s.writeStep o = (s.accPush x w).setPos (.writing { o with items := rest })) ∨
       (∃ rest, o.items = .flush :: rest ∧ s.accN = 0 ∧
          s.writeStep o = (s.setAcc 0 0).setPos (.writing { o with items := rest })) ∨
       (∃ rest, o.items = .flush :: rest ∧ s.accN ≠ 0 ∧
          s.writeStep o =
            s.outWrite (accFlush s.acc s.accN) fun t => (t.setAcc 0 0).setPos (.writing { o with items := rest })) ∨
       (∃ r, o.items = [] ∧ s.runBuf[o.next]? = some r ∧
          s.writeStep o = s.setPos (.writing { o with items := runItems o.form r, next := o.next + 1 })) ∨
       (o.items = [] ∧ s.runBuf[o.next]? = none ∧ o.closed = false ∧
          s.writeStep o = s.setPos (.writing { o with items := closingItems o.form, closed := true })) ∨
       (o.items = [] ∧ s.runBuf[o.next]? = none ∧ o.closed = true ∧ s.writeStep o = s.complete o.upd))) := by
  unfold State.writeStep
  by_cases h8 : 8 ≤ s.accN
  · exact .inl ⟨h8, by simp [h8]⟩
  · refine .inr ⟨Nat.lt_of_not_le h8, ?_⟩
    simp only [h8, if_false]
    cases hi : o.items with
    | cons x rest =>
      cases x with
      | byte b => exact .inl ⟨b, rest, rfl, rfl⟩
      | push x w => exact .inr (.inl ⟨x, w, rest, rfl, rfl⟩)
      | flush => by_cases h0 : s.accN = 0 <;> simp [h0]
    | nil =>
      cases hr : s.runBuf[o.next]? with
      | some r => simp
      | none => cases hc : o.closed <;> simp

/-- A running command (R45): no step in IDLE and ERROR; the input phase in BUSY.INPUT; the output phase in
BUSY.OUTPUT. -/
theorem runCommand_cases {input : State → Result} {s t : State} (h : runCommand input s = .next t) :
    ((s.eng = .idle ∨ s.eng = .error) ∧ t = s) ∨
    (s.eng = .busyInput ∧ input s = .next t) ∨
    (s.eng = .busyOutput ∧ ∃ o, s.pos = .writing o ∧ t = s.writeStep o) := by
  unfold runCommand at h
  split at h
  · exact .inl ⟨.inl ‹_›, by simpa using h.symm⟩
  · exact .inl ⟨.inr ‹_›, by simpa using h.symm⟩
  · exact .inr (.inl ⟨‹_›, h⟩)
  · split at h
    · exact .inr (.inr ⟨‹_›, _, ‹_›, by simpa using h.symm⟩)
    · cases h

/-- The end of an input phase: an error is raised or the output phase begins. -/
theorem conclude_cases (s : State) (r : Except ErrorCode Plan) :
    (∃ e, r = .error e ∧ s.conclude r = s.raise e) ∨ (∃ p, r = .ok p ∧ s.conclude r = s.enterOutput p) := by
  cases r with
  | error e => exact .inl ⟨e, rfl, rfl⟩
  | ok p => exact .inr ⟨p, rfl, rfl⟩

theorem emptyInput_cases {plan : Plan} {s t : State} (h : emptyInput plan s = .next t) :
    s.pos = .start ∧ t = s.enterOutput plan := by
  unfold emptyInput at h
  split at h
  · exact ⟨‹_›, by simpa using h.symm⟩
  · cases h

/-- The input phase of a command with a fixed amount of input: the operand check, one `InRead()`, or the content
checks. -/
theorem countedInput_cases {operands : Option ErrorCode} {n : Nat} {short : ErrorCode}
    {content : List Byte → Except ErrorCode Plan} {s t : State}
    (h : countedInput operands n short content s = .next t) :
    (s.pos = .start ∧ ∃ e, operands = some e ∧ t = s.raise e) ∨
    (s.pos = .start ∧ operands = none ∧ t = s.setPos (.bytes [])) ∨
    (∃ got, s.pos = .bytes got ∧ got.length < n ∧
      t = s.inRead (fun b u => u.setPos (.bytes (got ++ [b]))) fun u => u.raise short) ∨
    (∃ got, s.pos = .bytes got ∧ n ≤ got.length ∧ t = s.conclude (content got)) := by
  unfold countedInput at h
  split at h
  · split at h
    · exact .inl ⟨‹_›, _, rfl, by simpa using h.symm⟩
    · exact .inr (.inl ⟨‹_›, rfl, by simpa using h.symm⟩)
  · split at h
    · exact .inr (.inr (.inl ⟨_, ‹_›, ‹_›, by simpa using h.symm⟩))
    · exact .inr (.inr (.inr ⟨_, ‹_›, Nat.le_of_not_lt ‹_›, by simpa using h.symm⟩))
  · cases h

/-- Inside a payload: one `InRead()`, or the checks of `unpack`, then RUN_BUFFER_FULL, then the content checks. -/
theorem payloadStep_cases (content : Payload → List Run → Except ErrorCode Plan) (s : State) (p : Payload) :
    (0 < p.left ∧
      payloadStep content s p = s.inRead (fun b u => u.payloadByte p b) fun u => u.raise .truncatedStream) ∨
    (p.left = 0 ∧
      ((∃ e, p.unpacked s.latch.strict s.acc s.accN = .error e ∧ payloadStep content s p = s.raise e) ∨
       (∃ runs, p.unpacked s.latch.strict s.acc s.accN = .ok runs ∧ s.params.runBufDepth < runs.length ∧
          payloadStep content s p = s.raise .runBufferFull) ∨
       (∃ runs, p.unpacked s.latch.strict s.acc s.accN = .ok runs ∧ runs.length ≤ s.params.runBufDepth ∧
          payloadStep content s p = s.conclude (content p runs)))) := by
  unfold payloadStep
  by_cases h0 : 0 < p.left
  · exact .inl ⟨h0, by simp [h0]⟩
  · refine .inr ⟨Nat.eq_zero_of_not_pos h0, ?_⟩
    simp only [h0, if_false]
    cases hu : p.unpacked s.latch.strict s.acc s.accN with
    | error e => exact .inl ⟨e, rfl, rfl⟩
    | ok runs =>
      by_cases hd : s.params.runBufDepth < runs.length
      · exact .inr (.inl ⟨runs, rfl, hd, by simp [hd]⟩)
      · exact .inr (.inr ⟨runs, rfl, Nat.le_of_not_lt hd, by simp [hd]⟩)

/-- The input phase of UNPACK. -/
theorem payloadInput_cases {content : Payload → List Run → Except ErrorCode Plan} {s t : State}
    (h : payloadInput content s = .next t) :
    (s.pos = .start ∧ widthsLegal s.latch.vb.toNat s.latch.lb.toNat = false ∧ t = s.raise .widthError) ∨
    (s.pos = .start ∧ widthsLegal s.latch.vb.toNat s.latch.lb.toNat = true ∧
      t = s.setPos (.payload (Payload.begin s.latch.vb s.latch.lb s.latch.bl))) ∨
    (∃ p, s.pos = .payload p ∧ t = payloadStep content s p) := by
  unfold payloadInput at h
  split at h
  · split at h
    · exact .inl ⟨‹_›, ‹_›, by simpa using h.symm⟩
    · exact .inr (.inl ⟨‹_›, by simpa only [Bool.not_eq_false] using ‹¬ _ = false›, by simpa using h.symm⟩)
  · exact .inr (.inr ⟨_, ‹_›, by simpa using h.symm⟩)
  · cases h

/-- The input phase of the commands that read one BEN block. -/
theorem benBlockInput_cases {content : Payload → List Run → Except ErrorCode Plan} {s t : State}
    (h : benBlockInput content s = .next t) :
    (s.pos = .start ∧ t = s.atEnd (fun u => u.setPos (.header [])) fun u => u.completeEnd) ∨
    (∃ got, s.pos = .header got ∧ got.length < 6 ∧
      t = s.inRead (fun b u => u.setPos (.header (got ++ [b]))) fun u => u.raise .truncatedStream) ∨
    (∃ got p, s.pos = .header got ∧ 6 ≤ got.length ∧ headerPayload got = some p ∧ t = s.setPos (.payload p)) ∨
    (∃ p, s.pos = .payload p ∧ t = payloadStep content s p) := by
  unfold benBlockInput at h
  split at h
  · exact .inl ⟨‹_›, by simpa using h.symm⟩
  · split at h
    · exact .inr (.inl ⟨_, ‹_›, ‹_›, by simpa using h.symm⟩)
    · split at h
      · exact .inr (.inr (.inl ⟨_, _, ‹_›, Nat.le_of_not_lt ‹_›, ‹_›, by simpa using h.symm⟩))
      · cases h
  · exact .inr (.inr (.inr ⟨_, ‹_›, by simpa using h.symm⟩))
  · cases h

/-- The input phase of the commands that read one ben32 block. -/
theorem ben32Input_cases {content : List Run → Except ErrorCode Plan} {s t : State}
    (h : ben32Input content s = .next t) :
    (s.pos = .start ∧ t = s.atEnd (fun u => u.setPos (.words [] [])) fun u => u.completeEnd) ∨
    (∃ part runs, s.pos = .words part runs ∧ part.length < 4 ∧
      t = s.inRead (fun b u => u.setPos (.words (part ++ [b]) runs)) fun u => u.raise .truncatedStream) ∨
    (∃ a b c d runs, s.pos = .words [a, b, c, d] runs ∧ wordOf a b c d ≠ 0 ∧
      t = s.setPos (.words [] (runs ++ [⟨halfOf a b, halfOf c d⟩]))) ∨
    (∃ a b c d runs e, s.pos = .words [a, b, c, d] runs ∧ wordOf a b c d = 0 ∧
      ben32Check s.latch.strict s.params.runBufDepth runs = some e ∧ t = s.raise e) ∨
    (∃ a b c d runs, s.pos = .words [a, b, c, d] runs ∧ wordOf a b c d = 0 ∧
      ben32Check s.latch.strict s.params.runBufDepth runs = none ∧ t = s.conclude (content runs)) := by
  unfold ben32Input at h
  split at h
  · exact .inl ⟨‹_›, by simpa using h.symm⟩
  · split at h
    · split at h
      · split at h
        · exact .inr (.inr (.inr (.inl ⟨_, _, _, _, _, _, ‹_›, ‹_›, ‹_›, by simpa using h.symm⟩)))
        · exact .inr (.inr (.inr (.inr ⟨_, _, _, _, _, ‹_›, ‹_›, ‹_›, by simpa using h.symm⟩)))
      · exact .inr (.inr (.inl ⟨_, _, _, _, _, ‹_›, ‹_›, by simpa using h.symm⟩))
    · split at h
      · exact .inr (.inl ⟨_, _, ‹_›, ‹_›, by simpa using h.symm⟩)
      · cases h
  · cases h

/-- One host access (R67, R132): refused, a read, or a write. -/
theorem hostTurn_cases (s : State) (a : Access) :
    (∃ why, a.problem s.params.base = some why ∧ hostTurn s a = .refused (.badAccess why)) ∨
    (∃ addr n, a = .read addr n ∧ a.problem s.params.base = none ∧
      hostTurn s a = .next (s.readReg (regAt (addr - s.params.base)))) ∨
    (∃ addr n v, a = .write addr n v ∧ a.problem s.params.base = none ∧
      hostTurn s a = .next (s.writeReg (regAt (addr - s.params.base)) v)) := by
  unfold hostTurn
  cases hp : a.problem s.params.base with
  | some why => exact .inl ⟨why, rfl, rfl⟩
  | none =>
    cases a with
    | read addr n => exact .inr (.inl ⟨addr, n, rfl, rfl, rfl⟩)
    | write addr n v => exact .inr (.inr ⟨addr, n, v, rfl, rfl, rfl⟩)

/-- One engine step: nothing, the error entry of an illegal word, or a step of the latched command. -/
theorem engineTurn_cases (s : State) :
    (s.eng.busy = false ∧ engineTurn s = .next s) ∨
    (s.eng.busy = true ∧ ∃ r, s.fetch = .error r ∧ engineTurn s = .next (s.raise .illegalCommand)) ∨
    (s.eng.busy = true ∧ ∃ i, s.fetch = .ok i ∧ engineTurn s = exec i s) := by
  unfold engineTurn
  cases hb : s.eng.busy with
  | false => simp
  | true =>
    cases hf : s.fetch with
    | error r => exact .inr (.inl ⟨rfl, r, rfl, by simp⟩)
    | ok i => exact .inr (.inr ⟨rfl, i, rfl, by simp⟩)

/-- One atomic step of the machine: whose turn it is and what that agent does. -/
theorem step_cases (s : State) :
    (s.turns = [] ∧ step s = engineTurn s) ∨
    (∃ ts, s.turns = .engine :: ts ∧ step s = engineTurn (s.setTurns ts)) ∨
    (∃ a ts, s.turns = .access a :: ts ∧ step s = hostTurn (s.setTurns ts) a) ∨
    (∃ ts, s.turns = .reset :: ts ∧ step s = .next (s.setTurns ts).resetEvent) := by
  unfold step
  cases h : s.turns with
  | nil => exact .inl ⟨rfl, rfl⟩
  | cons t ts =>
    cases t with
    | engine => exact .inr (.inl ⟨ts, rfl, rfl⟩)
    | access a => exact .inr (.inr (.inl ⟨a, ts, rfl, rfl⟩))
    | reset => exact .inr (.inr (.inr ⟨ts, rfl, rfl⟩))

/-- Why an access is outside the interface (R67), or that it is inside. -/
theorem problem_eq_none_iff (base : Nat) (a : Access) :
    a.problem base = none ↔
      a.bytes = 4 ∧ base ≤ a.addr ∧ a.addr < base + 256 ∧ (a.addr - base) % 4 = 0 := by
  unfold Access.problem
  split
  · simp_all
  · split
    · constructor
      · intro h; cases h
      · intro h; omega
    · split
      · simp_all
      · simp only [true_iff]; omega

/-- An IN_DATA write keeps IN within its capacity (R40). -/
theorem writeInData_inq_le (s : State) (v : Word) (h : s.inq.length ≤ s.params.inDepth) :
    (s.writeInData v).inq.length ≤ (s.writeInData v).params.inDepth := by
  unfold State.writeInData
  split
  · exact h
  · split
    · exact h
    · simp only [State.setIn_inq, State.setIn_params, List.length_append, List.length_singleton]
      omega

/-- `OutWrite` keeps OUT within its capacity (R41), whatever the engine goes on with that leaves OUT alone. -/
theorem outWrite_outq_le (s : State) (b : Byte) (next : State → State)
    (hq : ∀ t, (next t).outq = t.outq) (hp : ∀ t, (next t).params = t.params)
    (h : s.outq.length ≤ s.params.outDepth) :
    (s.outWrite b next).outq.length ≤ (s.outWrite b next).params.outDepth := by
  rcases outWrite_cases s b next with ⟨hr, he⟩ | ⟨_, he⟩
  · rw [he, hq, hp]; simp only [State.putOut_outq, State.putOut_params, List.length_append, List.length_singleton]
    omega
  · rw [he]; exact h

end Sys2Proof.Machine
end

