-- ==== Sys2Proof/Laws/Exec.lean ====
section
/-! SUPPORT. What one engine step of any command can do, said once: the shapes of an input step and of an output step,
and the case split of `exec`. -/

namespace Sys2Proof.Machine

open Sys2Proof

/-- The shapes of one step of an input phase (R126): a wait, an error entry, a new position, one byte taken, the end of
the phase, END. -/
inductive InputStep (s t : State) : Prop
  | wait (h : t = s)
  | raise (e : ErrorCode) (h : t = s.raise e)
  | move (p : Pos) (h : t = s.setPos p)
  | take (b : Byte) (rest : List Byte) (p : Pos) (acc : BitVec 23) (n : Nat) (hq : s.inq = b :: rest)
      (h : t = ((s.setIn rest).setAcc acc n).setPos p)
  | leave (p : Plan) (h : t = s.enterOutput p)
  | atEnd (hq : s.inq = []) (he : s.inEof = true) (h : t = s.completeEnd)

theorem InputStep.ofConclude (s : State) (r : Except ErrorCode Plan) : InputStep s (s.conclude r) := by
  rcases conclude_cases s r with ⟨e, _, h⟩ | ⟨p, _, h⟩
  · exact .raise e h
  · exact .leave p h

theorem InputStep.ofInRead (s : State) (f : Byte → Pos) (e : ErrorCode) :
    InputStep s (s.inRead (fun b u => u.setPos (f b)) fun u => u.raise e) := by
  rcases inRead_cases s (fun b u => u.setPos (f b)) (fun u => u.raise e) with ⟨b, r, hq, h⟩ | ⟨_, _, h⟩ | ⟨_, _, h⟩
  · rw [h]; exact .take b r (f b) s.acc s.accN hq rfl
  · exact .raise e h
  · exact .wait h

theorem InputStep.ofAtEnd (s : State) (p : Pos) :
    InputStep s (s.atEnd (fun u => u.setPos p) fun u => u.completeEnd) := by
  rcases atEnd_cases s (fun u => u.setPos p) (fun u => u.completeEnd) with ⟨_, h⟩ | ⟨hq, he, h⟩ | ⟨_, _, h⟩
  · exact .move p h
  · exact .atEnd hq he h
  · exact .wait h

theorem InputStep.ofPayloadStep (content : Payload → List Run → Except ErrorCode Plan) (s : State) (p : Payload) :
    InputStep s (payloadStep content s p) := by
  rcases payloadStep_cases content s p with ⟨_, h⟩ | ⟨_, ⟨e, _, h⟩ | ⟨_, _, _, h⟩ | ⟨_, _, _, h⟩⟩
  · rcases inRead_cases s (fun b u => u.payloadByte p b) (fun u => u.raise .truncatedStream) with
      ⟨b, r, hq, h'⟩ | ⟨_, _, h'⟩ | ⟨_, _, h'⟩
    · rw [h, h']; exact .take b r _ _ _ hq rfl
    · rw [h, h']; exact .raise _ rfl
    · rw [h, h']; exact .wait rfl
  · exact .raise e h
  · exact .raise _ h
  · rw [h]; exact .ofConclude _ _

theorem InputStep.ofEmptyInput {plan : Plan} {s t : State} (h : emptyInput plan s = .next t) : InputStep s t :=
  .leave plan (emptyInput_cases h).2

theorem InputStep.ofCountedInput {operands : Option ErrorCode} {n : Nat} {short : ErrorCode}
    {content : List Byte → Except ErrorCode Plan} {s t : State}
    (h : countedInput operands n short content s = .next t) : InputStep s t := by
  rcases countedInput_cases h with ⟨_, e, _, h⟩ | ⟨_, _, h⟩ | ⟨_, _, _, h⟩ | ⟨_, _, _, h⟩
  · exact .raise e h
  · exact .move _ h
  · rw [h]; exact .ofInRead _ _ _
  · rw [h]; exact .ofConclude _ _

theorem InputStep.ofPayloadInput {content : Payload → List Run → Except ErrorCode Plan} {s t : State}
    (h : payloadInput content s = .next t) : InputStep s t := by
  rcases payloadInput_cases h with ⟨_, _, h⟩ | ⟨_, _, h⟩ | ⟨_, _, h⟩
  · exact .raise _ h
  · exact .move _ h
  · rw [h]; exact .ofPayloadStep _ _ _

theorem InputStep.ofBenBlockInput {content : Payload → List Run → Except ErrorCode Plan} {s t : State}
    (h : benBlockInput content s = .next t) : InputStep s t := by
  rcases benBlockInput_cases h with ⟨_, h⟩ | ⟨_, _, _, h⟩ | ⟨_, _, _, _, _, h⟩ | ⟨_, _, h⟩
  · rw [h]; exact .ofAtEnd _ _
  · rw [h]; exact .ofInRead _ _ _
  · exact .move _ h
  · rw [h]; exact .ofPayloadStep _ _ _

theorem InputStep.ofBen32Input {content : List Run → Except ErrorCode Plan} {s t : State}
    (h : ben32Input content s = .next t) : InputStep s t := by
  rcases ben32Input_cases h with ⟨_, h⟩ | ⟨_, _, _, _, h⟩ | ⟨_, _, _, _, _, _, _, h⟩ | ⟨_, _, _, _, _, _, _, _, _, h⟩ |
    ⟨_, _, _, _, _, _, _, _, h⟩
  · rw [h]; exact .ofAtEnd _ _
  · rw [h]; exact .ofInRead _ _ _
  · exact .move _ h
  · exact .raise _ h
  · rw [h]; exact .ofConclude _ _

/-- One engine step of any command: none in IDLE and ERROR, an input step in BUSY.INPUT, an output step in
BUSY.OUTPUT. -/
theorem exec_cases {i : Instr} {s t : State} (h : exec i s = .next t) :
    ((s.eng = .idle ∨ s.eng = .error) ∧ t = s) ∨ (s.eng = .busyInput ∧ InputStep s t) ∨
    (s.eng = .busyOutput ∧ ∃ o, s.pos = .writing o ∧ t = s.writeStep o) := by
  have key : ∀ input : State → Result, (∀ u v, input u = .next v → InputStep u v) → runCommand input s = .next t →
      ((s.eng = .idle ∨ s.eng = .error) ∧ t = s) ∨ (s.eng = .busyInput ∧ InputStep s t) ∨
      (s.eng = .busyOutput ∧ ∃ o, s.pos = .writing o ∧ t = s.writeStep o) := by
    intro input hi h
    rcases runCommand_cases h with h | ⟨he, h⟩ | h
    · exact .inl h
    · exact .inr (.inl ⟨he, hi _ _ h⟩)
    · exact .inr (.inr h)
  cases i
  case nop => exact key _ (fun _ _ => .ofEmptyInput) h
  case encMagic => exact key _ (fun _ _ => .ofEmptyInput) h
  case chkMagic => exact key _ (fun _ _ => .ofCountedInput) h
  case copyMagic => exact key _ (fun _ _ => .ofCountedInput) h
  case rleEnc => exact key _ (fun _ _ => .ofCountedInput) h
  case rleDec => exact key _ (fun _ _ => .ofCountedInput) h
  case width => exact key _ (fun _ _ => .ofCountedInput) h
  case pack => exact key _ (fun _ _ => .ofCountedInput) h
  case unpack => exact key _ (fun _ _ => .ofPayloadInput) h
  case encBlock => exact key _ (fun _ _ => .ofCountedInput) h
  case decBlock => exact key _ (fun _ _ => .ofBenBlockInput) h
  case runsToBen32 => exact key _ (fun _ _ => .ofCountedInput) h
  case ben32ToRuns => exact key _ (fun _ _ => .ofBen32Input) h
  case encBen32 => exact key _ (fun _ _ => .ofCountedInput) h
  case blockToBen32 => exact key _ (fun _ _ => .ofBenBlockInput) h
  case ben32ToBlock => exact key _ (fun _ _ => .ofBen32Input) h

/-- The shapes of one output step: a new accumulator and position, the same with one byte appended to OUT where there is
room, a wait, completion. -/
theorem writeStep_shape (s : State) (o : Output) :
    (∃ acc n p, s.writeStep o = (s.setAcc acc n).setPos p) ∨
    (∃ b acc n p, s.outq.length < s.params.outDepth ∧ s.writeStep o = ((s.putOut b).setAcc acc n).setPos p) ∨
    s.writeStep o = s ∨ s.writeStep o = s.complete o.upd := by
  rcases writeStep_cases s o with ⟨_, h⟩ | ⟨_, ⟨b, r, _, h⟩ | ⟨x, w, r, _, h⟩ | ⟨r, _, _, h⟩ | ⟨r, _, _, h⟩ |
    ⟨r, _, _, h⟩ | ⟨_, _, _, h⟩ | ⟨_, _, _, h⟩⟩
  · rw [h]
    rcases outWrite_cases s (accByte s.acc s.accN) (fun t => t.setAcc (accDrop s.acc s.accN 8) (s.accN - 8)) with
      ⟨hr, h'⟩ | ⟨_, h'⟩
    · exact .inr (.inl ⟨accByte s.acc s.accN, accDrop s.acc s.accN 8, s.accN - 8, s.pos, hr, h'⟩)
    · exact .inr (.inr (.inl h'))
  · rw [h]
    rcases outWrite_cases s b (fun t => t.setPos (.writing { o with items := r })) with ⟨hr, h'⟩ | ⟨_, h'⟩
    · exact .inr (.inl ⟨b, s.acc, s.accN, .writing { o with items := r }, hr, h'⟩)
    · exact .inr (.inr (.inl h'))
  · exact .inl ⟨_, _, _, h⟩
  · exact .inl ⟨_, _, _, h⟩
  · rw [h]
    rcases outWrite_cases s (accFlush s.acc s.accN)
      (fun t => (t.setAcc 0 0).setPos (.writing { o with items := r })) with ⟨hr, h'⟩ | ⟨_, h'⟩
    · exact .inr (.inl ⟨accFlush s.acc s.accN, 0, 0, .writing { o with items := r }, hr, h'⟩)
    · exact .inr (.inr (.inl h'))
  · exact .inl ⟨s.acc, s.accN, _, h⟩
  · exact .inl ⟨s.acc, s.accN, _, h⟩
  · exact .inr (.inr (.inr h))

end Sys2Proof.Machine
end

