-- ==== Sys2Proof/Laws/PerInstr.lean ====
section
/-! SUPPORT. Facts about each command as syntax: one lemma per constructor of `Instr`. -/

namespace Sys2Proof.Laws.EncodesItsTableRow

open Sys2Proof

/-- R80, R81: the command is well formed, its word has RSVD = 0 and its own OPCODE, and the decoder reads it back from
the 32 bits of its table row. -/
def Statement (i : Instr) : Prop :=
  i.wellFormed = true ∧ rsvdField (encode i) = 0 ∧ opcodeField (encode i) = opcode i ∧
    decodeTableWord 32 (encode i).toNat = some i

theorem nop : Statement .nop := by unfold Statement; decide
theorem encMagic : Statement .encMagic := by unfold Statement; decide
theorem chkMagic : Statement .chkMagic := by unfold Statement; decide
theorem copyMagic : Statement .copyMagic := by unfold Statement; decide
theorem rleEnc : Statement .rleEnc := by unfold Statement; decide
theorem rleDec : Statement .rleDec := by unfold Statement; decide
theorem width : Statement .width := by unfold Statement; decide
theorem pack : Statement .pack := by unfold Statement; decide
theorem unpack : Statement .unpack := by unfold Statement; decide
theorem encBlock : Statement .encBlock := by unfold Statement; decide
theorem decBlock : Statement .decBlock := by unfold Statement; decide
theorem runsToBen32 : Statement .runsToBen32 := by unfold Statement; decide
theorem ben32ToRuns : Statement .ben32ToRuns := by unfold Statement; decide
theorem encBen32 : Statement .encBen32 := by unfold Statement; decide
theorem blockToBen32 : Statement .blockToBen32 := by unfold Statement; decide
theorem ben32ToBlock : Statement .ben32ToBlock := by unfold Statement; decide

end Sys2Proof.Laws.EncodesItsTableRow
end

