-- ==== Sys2Proof/Machine/HostProgram.lean ====
section
/-! DEFINITION. The host-program notation (30_encoding.md R95 to R97) and the file sequences of the host (43_block_codec.md
R207, R208; 44_ben32.md R237), as turns of the machine. A loop of the host is a recursion on a bound on its turns; in
each pass the engine takes `pace` steps between the host's accesses, one of the interleavings R73 allows. -/

namespace Sys2Proof.Machine

open Sys2Proof

/-- The offset of a register (R21); for `reserved`, the first reserved offset (R38). -/
def regOffset : Reg → Nat
  | .id => 0x00
  | .ctrl => 0x04
  | .cmd => 0x08
  | .status => 0x0C
  | .valueBits => 0x10
  | .lengthBits => 0x14
  | .byteLength => 0x18
  | .count => 0x1C
  | .runCount => 0x20
  | .labelCount => 0x24
  | .blockCount => 0x28
  | .inData => 0x2C
  | .outData => 0x30
  | .inLevel => 0x34
  | .outLevel => 0x38
  | .inDepth => 0x3C
  | .outDepth => 0x40
  | .runBufDepth => 0x44
  | .reserved => 0x48

/-- One turn taken now, before the turns already waiting. The turns of this file are well formed, so the step answers a
next state. -/
def takeTurn (s : State) (t : Turn) : State :=
  match step (s.setTurns (t :: s.turns)) with
  | .next s' => s'
  | .fault _ => s
  | .refused _ => s

/-- `n` engine steps. -/
def engineTurns : Nat → State → State
  | 0, s => s
  | n + 1, s => engineTurns n (takeTurn s .engine)

/-- `wr NAME, v` (R96). -/
def wr (s : State) (r : Reg) (v : Word) : State :=
  takeTurn s (.access (.write (s.params.base + regOffset r) 4 v))

/-- `rd NAME -> x` (R96). -/
def rd (s : State) (r : Reg) : State × Word :=
  let t := takeTurn s (.access (.read (s.params.base + regOffset r) 4))
  (t, t.reads.getLastD 0)

/-- `cmd MNEMONIC` (R95, R96). -/
def cmdTurn (s : State) (i : Instr) : State := wr s .cmd (encode i)

/-- `push b0 b1 ... bk` (R97). -/
def pushAll : State → List Byte → State
  | s, [] => s
  | s, b :: bs => pushAll (wr s .inData (b.setWidth 32)) bs

/-- `pop -> x` (R96). -/
def popTurn (s : State) : State × Word := rd s .outData

/-- `eof`, `eofclr`, `strict s`, `abort` (R97), with the STRICT value the program wants. -/
def eofTurn (s : State) (strict : Bool) : State := wr s .ctrl (0x4 ||| if strict then 1 else 0)

def eofClrTurn (s : State) (strict : Bool) : State := wr s .ctrl (0x8 ||| if strict then 1 else 0)

def strictTurn (s : State) (strict : Bool) : State := wr s .ctrl (if strict then 1 else 0)

def abortTurn (s : State) : State := wr s .ctrl 0x2

/-- `wait` (R97): at most `fuel` polls. -/
def waitTurns (pace : Nat) : Nat → State → State
  | 0, s => s
  | fuel + 1, s =>
    let r := rd (engineTurns pace s) .status
    if r.2.getLsbD 0 then waitTurns pace fuel r.1 else r.1

/-- `drain -> xs` (R97): at most `fuel` pops. -/
def drainTurns : Nat → State → State × List Byte
  | 0, s => (s, [])
  | fuel + 1, s =>
    let r := popTurn s
    if r.2.getLsbD 8 then
      let q := drainTurns fuel r.1
      (q.1, r.2.setWidth 8 :: q.2)
    else (r.1, [])

/-- The inner `while` of `run` and `feed` (R97, R208): push while IN_LEVEL < IN_DEPTH. Answers the bytes not pushed. -/
def feedTurns : State → List Byte → State × List Byte
  | s, [] => (s, [])
  | s, b :: bs =>
    let r := rd s .inLevel
    if r.2.toNat < s.params.inDepth then feedTurns (wr r.1 .inData (b.setWidth 32)) bs else (r.1, b :: bs)

/-- How a host sequence ended: it ran to its end; it stopped with the error code it read (STATUS bits 15:8); or the bound
on its loops was used up first (log 13). -/
inductive HostEnd where
  | exited
  | stopped (code : Byte)
  | unfinished
deriving DecidableEq, Repr

/-- What a streaming loop carries: the state, the bytes still to be pushed, whether `eof` is still to be written, the
output so far, and the value of the host's last read of STATUS (`t` in R97 and R208). -/
structure Streaming where
  state : State
  todo : List Byte
  eofDue : Bool
  out : List Byte
  status : Word
deriving DecidableEq, Repr

/-- Fields of a STATUS value the host read (R25): `t[0]`, `t[2]`, `t[3]` and `t[15:8]`. -/
def readBusy (t : Word) : Bool := t.getLsbD 0

def readErr (t : Word) : Bool := t.getLsbD 2

def readEnd (t : Word) : Bool := t.getLsbD 3

def readErrCode (t : Word) : Byte := t.extractLsb' 8 8

/-- `rd STATUS -> t`. -/
def Streaming.readStatus (x : Streaming) : Streaming :=
  let r := rd x.state .status
  { x with state := r.1, status := r.2 }

/-- `drain -> xs`: OUT holds at most OUT_DEPTH bytes, so one pop more meets its end. -/
def Streaming.drain (x : Streaming) : Streaming :=
  let d := drainTurns (x.state.params.outDepth + 1) x.state
  { x with state := d.1, out := x.out ++ d.2 }

/-- The start of a host sequence: its input, whether it wants `eof` after it, no output yet. -/
def Streaming.start (s : State) (todo : List Byte) (eofDue : Bool) : Streaming :=
  { state := s, todo := todo, eofDue := eofDue, out := [], status := 1 }

/-- One pass of the streaming loop of `run` (R97) and of `step` (R208): feed, `eof` once at the end of the bytes, drain,
read STATUS. -/
def streamPass (pace : Nat) (strict : Bool) (x : Streaming) : Streaming :=
  let f := feedTurns x.state x.todo
  let s := if f.2 = [] ∧ x.eofDue then eofTurn f.1 strict else f.1
  ({ x with state := engineTurns pace s, todo := f.2, eofDue := x.eofDue && !f.2.isEmpty } : Streaming).drain.readStatus

/-- The streaming loop (R97, R208): passes until the STATUS read has BUSY = 0, then a last drain. -/
def streamLoop (pace : Nat) (strict : Bool) : Nat → Streaming → Streaming
  | 0, x => x
  | fuel + 1, x =>
    let y := streamPass pace strict x
    if readBusy y.status then streamLoop pace strict fuel y else y.drain

/-- `run MNEMONIC, bs -> xs` (R97), and `step(mn)` of R208: the command is written, then its input is streamed. The
result's `status` is the last STATUS value read; its bit 0 is still 1 where the bound on the passes was used up. -/
def runTurns (pace fuel : Nat) (strict : Bool) (i : Instr) (x : Streaming) : Streaming :=
  streamLoop pace strict fuel { x with state := cmdTurn x.state i, status := 1 }

/-- `wr COUNT, |xs|` and then `run` of the command `i` on the labels `xs` (R207, R237). -/
def sampleTurns (pace fuel : Nat) (i : Instr) (xs : List Half) (x : Streaming) : Streaming :=
  runTurns pace fuel true i
    { x with state := wr x.state .count (BitVec.ofNat 32 xs.length), todo := xs.flatMap labelBytes }

/-- The loop of `encodeFile` (R207): after each ENC_BLOCK, `rd STATUS -> t`, and with `t[2] = 1` the sequence stops with
error `t[15:8]`. -/
def encodeSamples (pace fuel : Nat) : List (List Half) → Streaming → Streaming × HostEnd
  | [], x => (x, .exited)
  | xs :: rest, x =>
    let y := sampleTurns pace fuel .encBlock xs x
    if readBusy y.status then (y, .unfinished)
    else
      let z := y.readStatus
      if readErr z.status then (z, .stopped (readErrCode z.status)) else encodeSamples pace fuel rest z

/-- `encodeFile(samples)` (R207). -/
def encodeFileTurns (pace fuel : Nat) (s : State) (samples : List (List Half)) : Streaming × HostEnd :=
  let x := runTurns pace fuel true .encMagic (.start s [] false)
  if readBusy x.status then (x, .unfinished) else encodeSamples pace fuel samples x

/-- The loop of `jsonlToBen32` (R237), which tests no STATUS between its samples: after an error it goes on with the next
`wr COUNT` and `run`, whose command the block drops (R276). -/
def jsonlSamples (pace fuel : Nat) : List (List Half) → Streaming → Streaming × HostEnd
  | [], x => (x, .exited)
  | xs :: rest, x =>
    let y := sampleTurns pace fuel .encBen32 xs x
    if readBusy y.status then (y, .unfinished) else jsonlSamples pace fuel rest y

/-- `jsonlToBen32(samples)` (R237). -/
def jsonlToBen32Turns (pace fuel : Nat) (s : State) (samples : List (List Half)) : Streaming × HostEnd :=
  let x := runTurns pace fuel true .encMagic (.start s [] false)
  if readBusy x.status then (x, .unfinished) else jsonlSamples pace fuel samples x

/-- The block loop of R208 and R237, at most `blocks` times: one command `i` per block; with `t[2] = 1` it stops with
error `t[15:8]`; with `t[3] = 1` (END) it exits. Answers the outputs of the completed blocks, in order. -/
def blockLoop (pace fuel : Nat) (strict : Bool) (i : Instr) : Nat → Streaming → Streaming × List (List Byte) × HostEnd
  | 0, x => (x, [], .unfinished)
  | blocks + 1, x =>
    let y := runTurns pace fuel strict i { x with out := [] }
    if readBusy y.status then (y, [], .unfinished)
    else if readErr y.status then (y, [], .stopped (readErrCode y.status))
    else if readEnd y.status then (y, [], .exited)
    else
      let r := blockLoop pace fuel strict i blocks y
      (r.1, y.out :: r.2.1, r.2.2)

/-- "then abort (R277)" of R208: an error stop of the block loop is followed by the abort. -/
def abortIfStopped (s : State) (e : HostEnd) : State :=
  match e with
  | .exited => s
  | .stopped _ => abortTurn s
  | .unfinished => s

/-- `decodeFile(file)` (R208): CHK_MAGIC, and with `t[2] = 1` the sequence stops with error `t[15:8]`; then DEC_BLOCK until
END, and on an error the abort. Answers the state after it, the samples decoded, and how it ended. -/
def decodeFileTurns (pace fuel blocks : Nat) (strict : Bool) (s : State) (file : List Byte) :
    State × List (List Half) × HostEnd :=
  let x := runTurns pace fuel strict .chkMagic (.start s file true)
  if readBusy x.status then (x.state, [], .unfinished)
  else if readErr x.status then (x.state, [], .stopped (readErrCode x.status))
  else
    let r := blockLoop pace fuel strict .decBlock blocks x
    (abortIfStopped r.1.state r.2.2, r.2.1.map labelsOf, r.2.2)

/-- `benToBen32(file)` with `i` = BLOCK_TO_BEN32, and `ben32ToBen(stream)` with `i` = BEN32_TO_BLOCK (R237): COPY_MAGIC,
then one command per block until END or ERROR. ERR is tested in the loop only: after a bad magic the loop's first command
is dropped (R276), and the loop stops with the code of the magic's error. Answers the state after it, the output bytes,
and how it ended. -/
def transcodeTurns (pace fuel blocks : Nat) (strict : Bool) (i : Instr) (s : State) (file : List Byte) :
    State × List Byte × HostEnd :=
  let x := runTurns pace fuel strict .copyMagic (.start s file true)
  if readBusy x.status then (x.state, x.out, .unfinished)
  else
    let r := blockLoop pace fuel strict i blocks x
    (r.1.state, x.out ++ r.2.1.flatten, r.2.2)

end Sys2Proof.Machine
end

