-- ==== Sys2Proof/Tests/Slice0.lean ====
section
/-! SUPPORT. Tests: a written-out word for every command, the ill-formed terms the checks refuse, one-step tests whose
expected results come from spec/95_test_vectors.md, and for each statement with hypotheses a concrete case that meets
them. -/

namespace Sys2Proof.Tests

open Sys2Proof Sys2Proof.Machine

/-! ### Helpers -/

/-- The parameters of the tests. -/
def params : Params := { inDepth := 32, outDepth := 20, runBufDepth := 4, base := 0x1000, byteLanes := 0 }

/-- The block after reset with the tests' parameters, then IN and the operand registers as given. -/
def given (inq : List Byte) (count : Nat := 0) (vb : Nat := 0) (lb : Nat := 0) (bl : Nat := 0) (eof : Bool := false)
    (strict : Bool := true) : State :=
  { State.resetOf params with
    inq := inq
    count := BitVec.ofNat 32 count
    valueBits := BitVec.ofNat 8 vb
    lengthBits := BitVec.ofNat 8 lb
    byteLength := BitVec.ofNat 32 bl
    inEof := eof
    strict := strict }

/-- A command just accepted. -/
def running (s : State) (i : Instr) : State := s.accept (encode i)

/-- A command at a position of its input phase. -/
def inside (s : State) (i : Instr) (p : Pos) : State := (running s i).setPos p

/-- A command in the output phase. -/
def writing (s : State) (i : Instr) (p : Plan) : State := (running s i).enterOutput p

/-- The next state of a step, if it has one. -/
def after (r : Result) : Option State :=
  match r with
  | .next t => some t
  | .fault _ => none
  | .refused _ => none

/-- What a step that ends an input phase leaves for the output phase. -/
def leaves (r : Result) : Option (Engine × List Run × Pos) := (after r).map fun t => (t.eng, t.runBuf, t.pos)

/-- STATUS and the engine state after a step. -/
def statusAfter (r : Result) : Option (Word × Engine) := (after r).map fun t => (t.status.word, t.eng)

/-- The first step of a word, as the host asks for it. -/
def firstStep (w : Nat) : Option (Word × Engine) := statusAfter (step (State.reset.withFetchWord 32 w))

/-- E1: the labels 1 1 1 2 2 2 and their runs. -/
def labels1 : List Half := [1, 1, 1, 2, 2, 2]

def runs1 : List Run := [⟨1, 3⟩, ⟨2, 3⟩]

/-- The labels 1 1 2 2 1 2 of E2 have these runs. -/
def runs2 : List Run := [⟨1, 2⟩, ⟨2, 2⟩, ⟨1, 1⟩, ⟨2, 1⟩]

/-- An output position with nothing left to do. -/
def lastPos (u : Updates) : Output := { items := [], form := .nothing, next := 0, closed := true, upd := u }

/-! ### Decoding: the word of every command, written out from R81; R82's words -/

theorem test_decode_nop : decode 0b00000000000000000000000000000000#32 = .ok .nop := by decide
theorem test_decode_encMagic : decode 0b00000000000000000000000000000001#32 = .ok .encMagic := by decide
theorem test_decode_chkMagic : decode 0b00000000000000000000000000000010#32 = .ok .chkMagic := by decide
theorem test_decode_copyMagic : decode 0b00000000000000000000000000000011#32 = .ok .copyMagic := by decide
theorem test_decode_rleEnc : decode 0b00000000000000000000000000010000#32 = .ok .rleEnc := by decide
theorem test_decode_rleDec : decode 0b00000000000000000000000000010001#32 = .ok .rleDec := by decide
theorem test_decode_width : decode 0b00000000000000000000000000100000#32 = .ok .width := by decide
theorem test_decode_pack : decode 0b00000000000000000000000000100001#32 = .ok .pack := by decide
theorem test_decode_unpack : decode 0b00000000000000000000000000100010#32 = .ok .unpack := by decide
theorem test_decode_encBlock : decode 0b00000000000000000000000000110000#32 = .ok .encBlock := by decide
theorem test_decode_decBlock : decode 0b00000000000000000000000000110001#32 = .ok .decBlock := by decide
theorem test_decode_runsToBen32 : decode 0b00000000000000000000000001000000#32 = .ok .runsToBen32 := by decide
theorem test_decode_ben32ToRuns : decode 0b00000000000000000000000001000001#32 = .ok .ben32ToRuns := by decide
theorem test_decode_encBen32 : decode 0b00000000000000000000000001000010#32 = .ok .encBen32 := by decide
theorem test_decode_blockToBen32 : decode 0b00000000000000000000000001000011#32 = .ok .blockToBen32 := by decide
theorem test_decode_ben32ToBlock : decode 0b00000000000000000000000001000100#32 = .ok .ben32ToBlock := by decide

/-- V40.3, V40.7. -/
theorem test_decode_reserved_bits :
    decode 0x00000100 = .error .reservedBits ∧ decode 0x80000030 = .error .reservedBits := by decide

/-- R82: the first word of each unassigned range. -/
theorem test_decode_unassigned_first :
    decode 0x04 = .error .unassignedOpcode ∧ decode 0x12 = .error .unassignedOpcode ∧
    decode 0x23 = .error .unassignedOpcode ∧ decode 0x32 = .error .unassignedOpcode ∧
    decode 0x45 = .error .unassignedOpcode := by decide

/-- R82: the last word of each unassigned range. -/
theorem test_decode_unassigned_last :
    decode 0x0F = .error .unassignedOpcode ∧ decode 0x1F = .error .unassignedOpcode ∧
    decode 0x2F = .error .unassignedOpcode ∧ decode 0x3F = .error .unassignedOpcode ∧
    decode 0xFF = .error .unassignedOpcode := by decide

theorem test_decodeTableWord : decodeTableWord 32 0x31 = some .decBlock ∧ decodeTableWord 32 0x131 = none ∧
    decodeTableWord 8 0x131 = some .decBlock ∧ decodeTableWord 64 0x100000031 = none := by decide

/-! ### Well-formedness: what each check refuses -/

theorem test_access_wrong_width : Access.problem 0x1000 (.read 0x1000 2) = some .wrongWidth := by decide
theorem test_access_below : Access.problem 0x1000 (.read 0x0FFC 4) = some .outsideSpace := by decide
theorem test_access_above : Access.problem 0x1000 (.write 0x1100 4 0) = some .outsideSpace := by decide
theorem test_access_misaligned : Access.problem 0x1000 (.read 0x100E 4) = some .misaligned := by decide
theorem test_access_wellFormed :
    Access.wellFormed 0x1000 (.read 0x1000 4) = true ∧ Access.wellFormed 0x1000 (.write 0x10FC 4 0) = true := by decide
theorem test_params_no_in : ({ params with inDepth := 0 } : Params).wellFormed = false := by decide
theorem test_params_no_out : ({ params with outDepth := 0 } : Params).wellFormed = false := by decide
theorem test_params_no_runs : ({ params with runBufDepth := 0 } : Params).wellFormed = false := by decide
theorem test_params_too_deep : ({ params with runBufDepth := 2 ^ 32 } : Params).wellFormed = false := by
  simp [Params.wellFormed]
theorem test_params_wellFormed : params.wellFormed = true := by decide

/-! ### The first step of each word after reset, as the host asks for it -/

theorem test_first_step_enters_output :
    ∀ w ∈ [0x00, 0x01], firstStep w = some (0x1, .busyOutput) := by decide

theorem test_first_step_reads_input :
    ∀ w ∈ [0x02, 0x03, 0x10, 0x11, 0x20, 0x30, 0x31, 0x40, 0x41, 0x42, 0x43, 0x44],
      firstStep w = some (0x1, .busyInput) := by decide

/-- VALUE_BITS and LENGTH_BITS are 0 after reset: WIDTH_ERROR (R175, R274). -/
theorem test_first_step_width_error : ∀ w ∈ [0x21, 0x22], firstStep w = some (0x404, .error) := by decide

/-- V40.4 to V40.6. -/
theorem test_first_step_illegal : ∀ w ∈ [0x04, 0x12, 0xFF, 0x100], firstStep w = some (0x104, .error) := by decide

/-! ### One step of each command; expected results from the vectors named -/

/-- V40.1. -/
theorem test_nop_completes :
    statusAfter (exec .nop ((running (given [1, 2]) .nop).setPos (.writing (lastPos {})) |> fun s =>
      { s with eng := .busyOutput })) = some (0x2, .idle) := by decide

/-- V43.1: the first magic byte. -/
theorem test_encMagic_first_byte :
    (after (exec .encMagic (writing (given []) .encMagic magicPlan))).map (fun t => t.outq) = some [0x53] := by decide

/-- V43.2. -/
theorem test_chkMagic_accepts :
    leaves (exec .chkMagic (inside (given []) .chkMagic (.bytes magic))) =
      some (.busyOutput, [], .writing { items := [], form := .nothing, next := 0, closed := false, upd := {} }) := by
  decide

/-- V43.4: `53 54 41 4E 44` then EOF. -/
theorem test_chkMagic_short :
    statusAfter (exec .chkMagic (inside (given [] (eof := true)) .chkMagic (.bytes [0x53, 0x54, 0x41, 0x4E, 0x44]))) =
      some (0x204, .error) := by decide

theorem test_copyMagic_rejects :
    statusAfter (exec .copyMagic (inside (given []) .copyMagic (.bytes (List.replicate 17 0x53)))) =
      some (0x204, .error) := by decide

/-- V41.1. -/
theorem test_rleEnc_runs :
    leaves (exec .rleEnc (inside (given [] 6) .rleEnc (.bytes [0, 1, 0, 1, 0, 1, 0, 2, 0, 2, 0, 2]))) =
      some (.busyOutput, [⟨1, 3⟩, ⟨2, 3⟩],
        .writing { items := [], form := .records, next := 0, closed := false,
                   upd := { runCount := some 2, labelCount := some 6 } }) := by decide

/-- V41.7: `00 05 00 06` then EOF with COUNT = 3. -/
theorem test_rleEnc_short :
    statusAfter (exec .rleEnc (inside (given [] 3 (eof := true)) .rleEnc (.bytes [0, 5, 0, 6]))) =
      some (0x304, .error) := by decide

/-- V41.12: the first run's labels. -/
theorem test_rleDec_expands :
    (after (exec .rleDec (writing (given [] 2) .rleDec
        { runs := runs1, lead := [], form := .labels, upd := {} }))).map (fun t => t.pos) =
      some (.writing
        { items := [.byte 0, .byte 1, .byte 0, .byte 1, .byte 0, .byte 1], form := .labels, next := 1, closed := false,
          upd := {} }) := by decide

/-- V41.15. -/
theorem test_rleDec_zero_length :
    statusAfter (exec .rleDec (inside (given [] 2) .rleDec (.bytes [0, 1, 0, 1, 0, 3, 0, 0]))) =
      some (0x804, .error) := by decide

/-- V42.5: widths 3 and 4, 3 bytes, 3 runs. -/
theorem test_width_result :
    leaves (exec .width (inside (given [] 3) .width (.bytes [0, 4, 0, 1, 0, 3, 0, 8, 0, 0, 0, 2]))) =
      some (.busyOutput, [],
        .writing { items := [], form := .nothing, next := 0, closed := false,
                   upd := { valueBits := some 3, lengthBits := some 4, byteLength := some 3, runCount := some 3 } }) := by
  decide

/-- V42.8: the payload byte `7B` leaves the accumulator. -/
theorem test_pack_byte :
    (after (exec .pack ({ writing (given [] 2 2 2) .pack
        { runs := runs1, lead := [], form := .packed 2 2, upd := {} } with acc := 0x7B, accN := 8 }))).map
      (fun t => (t.outq, t.acc, t.accN)) = some ([0x7B], 0, 0) := by decide

/-- R183: value 4 does not fit 2 bits. -/
theorem test_pack_field_overflow :
    statusAfter (exec .pack (inside (given [] 1 2 2) .pack (.bytes [0, 4, 0, 1]))) = some (0x704, .error) := by decide

/-- V42.23: the byte `7B` of a payload with widths 2 and 2. -/
theorem test_unpack_byte :
    (after (exec .unpack (inside (given [0x7B] 0 2 2 1) .unpack (.payload (Payload.begin 2 2 1))))).map
      (fun t => (t.inq, t.pos)) =
      some ([], .payload { Payload.begin 2 2 1 with left := 0, runs := [⟨1, 3⟩, ⟨2, 3⟩] }) := by decide

/-- V42.30: the widths 3 and 2 of the single run (1, 3) are not minimal. -/
theorem test_unpack_not_minimal :
    statusAfter (exec .unpack (inside (given [] 0 3 2 1) .unpack
      (.payload { Payload.begin 3 2 1 with left := 0, runs := [⟨1, 3⟩] }))) = some (0x404, .error) := by decide

/-- V43.7: the header `02 02 00 00 00 01`. -/
theorem test_encBlock_header :
    leaves (exec .encBlock (inside (given [] 6) .encBlock (.bytes [0, 1, 0, 1, 0, 1, 0, 2, 0, 2, 0, 2]))) =
      some (.busyOutput, [⟨1, 3⟩, ⟨2, 3⟩],
        .writing { items := [.byte 2, .byte 2, .byte 0, .byte 0, .byte 0, .byte 1], form := .packed 2 2, next := 0,
                   closed := false,
                   upd := { valueBits := some 2, lengthBits := some 2, byteLength := some 1, runCount := some 2,
                            labelCount := some 6, block := true } }) := by decide

/-- V43.9: the empty sample. -/
theorem test_encBlock_empty :
    (after (exec .encBlock (inside (given [] 0) .encBlock (.bytes [])))).map (fun t => t.pos) =
      some (.writing { items := [.byte 1, .byte 1, .byte 0, .byte 0, .byte 0, .byte 0], form := .packed 1 1, next := 0,
                       closed := false,
                       upd := { valueBits := some 1, lengthBits := some 1, byteLength := some 0, runCount := some 0,
                                labelCount := some 0, block := true } }) := by decide

/-- P2: the third DEC_BLOCK finds the end of the input. -/
theorem test_decBlock_end :
    (after (exec .decBlock (running (given [] (eof := true)) .decBlock))).map
      (fun t => (t.status.word, t.inEof, t.blockCount)) = some (0xA, false, 0) := by decide

/-- V43.15: 4 runs, 6 labels. -/
theorem test_decBlock_runs :
    leaves (exec .decBlock (inside (given []) .decBlock
      (.payload { Payload.begin 2 2 2 with left := 0, runs := runs2 }))) =
      some (.busyOutput, runs2,
        .writing { items := [], form := .labels, next := 0, closed := false,
                   upd := { valueBits := some 2, lengthBits := some 2, byteLength := some 2, runCount := some 4,
                            labelCount := some 6, block := true } }) := by decide

/-- V44.1: the sentinel follows the last record. -/
theorem test_runsToBen32_sentinel :
    (after (exec .runsToBen32 ((writing (given [] 2) .runsToBen32
        { runs := runs1, lead := [], form := .ben32, upd := {} }).setPos
        (.writing { items := [], form := .ben32, next := 2, closed := false, upd := {} })))).map (fun t => t.pos) =
      some (.writing { items := [.byte 0, .byte 0, .byte 0, .byte 0], form := .ben32, next := 2, closed := true,
                       upd := {} }) := by decide

/-- V44.3. -/
theorem test_runsToBen32_zero_length :
    statusAfter (exec .runsToBen32 (inside (given [] 1) .runsToBen32 (.bytes [0, 5, 0, 0]))) =
      some (0x804, .error) := by decide

/-- V44.9: the record `00 05 00 00` inside the block. -/
theorem test_ben32ToRuns_zero_length :
    statusAfter (exec .ben32ToRuns (inside (given []) .ben32ToRuns (.words [0, 0, 0, 0] [⟨5, 0⟩]))) =
      some (0x804, .error) := by decide

/-- R233: the block `00 00 00 00` gives zero runs and is not END. -/
theorem test_ben32ToRuns_empty :
    leaves (exec .ben32ToRuns (inside (given []) .ben32ToRuns (.words [0, 0, 0, 0] []))) =
      some (.busyOutput, [],
        .writing { items := [], form := .records, next := 0, closed := false,
                   upd := { runCount := some 0, block := true } }) := by decide

/-- V44.17: the runs of E1's labels. -/
theorem test_encBen32_runs :
    leaves (exec .encBen32 (inside (given [] 6) .encBen32 (.bytes [0, 1, 0, 1, 0, 1, 0, 2, 0, 2, 0, 2]))) =
      some (.busyOutput, [⟨1, 3⟩, ⟨2, 3⟩],
        .writing { items := [], form := .ben32, next := 0, closed := false,
                   upd := { runCount := some 2, labelCount := some 6, block := true } }) := by decide

/-- R235: the header's values are the results, and LABEL_COUNT is unchanged. -/
theorem test_blockToBen32_runs :
    leaves (exec .blockToBen32 (inside (given []) .blockToBen32
      (.payload { Payload.begin 2 2 1 with left := 0, runs := runs1 }))) =
      some (.busyOutput, runs1,
        .writing { items := [], form := .ben32, next := 0, closed := false,
                   upd := { valueBits := some 2, lengthBits := some 2, byteLength := some 1, runCount := some 2,
                            block := true } }) := by decide

/-- R236: `00 01 00 03 00 02 00 03 00 00 00 00` gives the header `02 02 00 00 00 01`. -/
theorem test_ben32ToBlock_header :
    leaves (exec .ben32ToBlock (inside (given []) .ben32ToBlock (.words [0, 0, 0, 0] runs1))) =
      some (.busyOutput, runs1,
        .writing { items := [.byte 2, .byte 2, .byte 0, .byte 0, .byte 0, .byte 1], form := .packed 2 2, next := 0,
                   closed := false,
                   upd := { valueBits := some 2, lengthBits := some 2, byteLength := some 1, runCount := some 2,
                            block := true } }) := by decide

/-! ### The codec's functions on the source's examples -/

/-- R170's table. -/
theorem test_bitsNeeded : [0, 1, 2, 3, 4, 7, 255, 256, 65535].map bitsNeeded = [0, 1, 2, 2, 3, 3, 8, 9, 16] := by decide

/-- E1 and E2. -/
theorem test_pack : pack runs1 2 2 = [0x7B] ∧ pack runs2 2 2 = [0x6A, 0x59] := by decide

/-- E2 read back; E4's byte. -/
theorem test_unpack : unpack [0x6A, 0x59] 2 2 true = .ok runs2 ∧ unpack [0x40] 1 1 true = .ok [⟨0, 1⟩] := by decide

/-- E2: the golden file. -/
theorem test_golden_file : encodeFile [labels1, [1, 1, 2, 2, 1, 2]] =
    [83, 84, 65, 78, 68, 65, 82, 68, 32, 66, 69, 78, 32, 70, 73, 76, 69, 2, 2, 0, 0, 0, 1, 123, 2, 2, 0, 0, 0, 2, 106, 89] := by
  decide

/-! ### For each statement with hypotheses: a case that meets them -/

theorem witness_DecodeEncodeRoundTrip : Instr.wellFormed .ben32ToBlock = true := by decide

/-- The block with the engine in a given state and the given turns. -/
def at_ (e : Engine) (ts : List Turn) : State := { given [] with eng := e, turns := ts }

theorem witness_StepRunsTheLatchedCommand :
    ((running (given [1]) .rleEnc).turns = [] ∧ (running (given [1]) .rleEnc).eng.busy = true ∧
      decode (running (given [1]) .rleEnc).latch.word = .ok .rleEnc) ∧
    (((running (given [1]) .pack).setTurns [.engine, .reset]).turns = .engine :: [.reset] ∧
      ((running (given [1]) .pack).setTurns [.engine, .reset]).eng.busy = true ∧
      decode ((running (given [1]) .pack).setTurns [.engine, .reset]).latch.word = .ok .pack) ∧
    ((at_ .error []).turns = [] ∧ (at_ .error []).eng.busy = false) ∧
    ((at_ .idle [.engine]).turns = .engine :: [] ∧ (at_ .idle [.engine]).eng.busy = false) := by decide

theorem witness_IllegalCommandEntersError :
    (((given [1]).accept 0x80000030).turns = [] ∧ ((given [1]).accept 0x80000030).eng.busy = true ∧
      decode ((given [1]).accept 0x80000030).latch.word = .error .reservedBits) ∧
    ((((given [1]).accept 0x12).setTurns [.engine]).turns = .engine :: [] ∧
      (((given [1]).accept 0x12).setTurns [.engine]).eng.busy = true ∧
      decode (((given [1]).accept 0x12).setTurns [.engine]).latch.word = .error .unassignedOpcode) := by decide

/-- Each way to be outside the interface, and both ends of it. -/
theorem witness_HostTurnsAreRefusedExactlyOutsideTheInterface :
    (∀ a ∈ [Access.read 0x1000 2, .read 0x0FFF 4, .write 0x1100 4 0, .read 0x10FD 4],
      (at_ .idle [.access a]).turns = .access a :: [] ∧
        (a.bytes ≠ 4 ∨ a.addr < (at_ .idle [.access a]).params.base ∨
          (at_ .idle [.access a]).params.base + 256 ≤ a.addr ∨
          (a.addr - (at_ .idle [.access a]).params.base) % 4 ≠ 0)) ∧
    (∀ a ∈ [Access.read 0x1000 4, .write 0x10FC 4 7],
      (at_ .idle [.access a]).turns = .access a :: [] ∧ a.bytes = 4 ∧
        (at_ .idle [.access a]).params.base ≤ a.addr ∧ a.addr < (at_ .idle [.access a]).params.base + 256 ∧
        (a.addr - (at_ .idle [.access a]).params.base) % 4 = 0) := by decide

theorem witness_CmdWriteInIdleIsAcceptance : (given []).eng = .idle := by decide

theorem witness_CmdWriteElsewhereIsDroppedWithOvr :
    (at_ .busyInput []).eng ≠ .idle ∧ (at_ .busyOutput []).eng ≠ .idle ∧ (at_ .error []).eng ≠ .idle := by decide

/-- A DEC_BLOCK about to complete. -/
def done : State :=
  { running (given []) .decBlock with
    eng := .busyOutput
    runBuf := runs1
    pos := .writing { lastPos { runCount := some 2, block := true } with next := 2 } }

/-- The last output position of `done`. -/
def donePos : Output := { lastPos { runCount := some 2, block := true } with next := 2 }

theorem witness_CompletionIsOneStep :
    done.eng = .busyOutput ∧ done.pos = .writing donePos ∧ done.accN < 8 ∧ donePos.items = [] ∧
      done.runBuf.length ≤ donePos.next ∧ donePos.closed = true := by decide

theorem witness_EndCompletionIsOneStep :
    ∀ i ∈ [Instr.decBlock, .ben32ToRuns, .blockToBen32, .ben32ToBlock],
      (i = .decBlock ∨ i = .ben32ToRuns ∨ i = .blockToBen32 ∨ i = .ben32ToBlock) ∧
      (running (given [] (eof := true)) i).eng = .busyInput ∧ (running (given [] (eof := true)) i).pos = .start ∧
      (running (given [] (eof := true)) i).inq = [] ∧ (running (given [] (eof := true)) i).inEof = true := by decide

/-- A PACK with illegal widths: its first step enters ERROR. -/
theorem witness_ErrorEntryChangesOnlyWhatR273Lists :
    ∃ t, exec .pack (running (given [1] 1 17 1) .pack) = .next t ∧
      (running (given [1] 1 17 1) .pack).eng ≠ .error ∧ t.eng = .error := ⟨_, rfl, by decide, by decide⟩

theorem witness_AbortInAnyState : (0x2 : Word).getLsbD 1 = true ∧ (0xF : Word).getLsbD 1 = true := by decide

theorem witness_ResetLeavesTheStatedValues : (at_ .error [.reset, .engine]).turns = .reset :: [.engine] := by decide

theorem witness_OnlyAbortAndResetLeaveError :
    (∃ t, step (at_ .error [.reset]) = .next t ∧ (at_ .error [.reset]).eng = .error ∧ t.eng ≠ .error) ∧
    (∃ t, step (at_ .error [.access (.write 0x1004 4 2)]) = .next t ∧
      (at_ .error [.access (.write 0x1004 4 2)]).eng = .error ∧ t.eng ≠ .error) :=
  ⟨⟨_, rfl, by decide, by decide⟩, ⟨_, rfl, by decide, by decide⟩⟩

/-- The first and the last reserved offset. -/
theorem witness_RegisterReadsReturnTheMapsValues :
    (0x48 ≤ 4 * 18 ∧ 4 * 18 ≤ 0xFC) ∧ (0x48 ≤ 4 * 63 ∧ 4 * 63 ≤ 0xFC) := by decide

theorem witness_OutDataReadPopsOneByte :
    ({ given [] with outq := [0, 7] } : State).outq = 0 :: [7] ∧ (given []).outq = [] := by decide

/-- The cases of an IN_DATA write (R134): ERROR, IN_EOF = 1, IN full, room for one byte. -/
theorem test_inData_cases :
    (at_ .error []).writeInData 7 = at_ .error [] ∧
    ((given [] (eof := true)).writeInData 7).status.ovr = true ∧
    ((given (List.replicate 32 1)).writeInData 7).inq.length = 32 ∧
    ((given (List.replicate 31 1)).writeInData 0x107).inq = List.replicate 31 1 ++ [7] := by decide

theorem witness_OperandWritesTakeEffectUnlessBusy :
    (at_ .busyInput []).eng.busy = true ∧ (at_ .busyOutput []).eng.busy = true ∧ (at_ .idle []).eng.busy = false ∧
      (at_ .error []).eng.busy = false ∧ (0x48 ≤ 4 * 18 ∧ 4 * 18 ≤ 0xFC) ∧ (0x48 ≤ 4 * 63 ∧ 4 * 63 ≤ 0xFC) := by decide

theorem witness_CtrlWriteWithoutAbort :
    ((0xC : Word).getLsbD 1 = false ∧ (at_ .busyOutput []).eng.busy = true) ∧
    ((0x9 : Word).getLsbD 1 = false ∧ (at_ .idle []).eng.busy = false ∧
      ((0x9 : Word).getLsbD 2 && (0x9 : Word).getLsbD 3) = false) ∧
    ((0xD : Word).getLsbD 1 = false ∧ (at_ .error []).eng.busy = false ∧ (0xD : Word).getLsbD 2 = true ∧
      (0xD : Word).getLsbD 3 = true) := by decide

/-- Every kind of `InRead()` position, at its first and its last byte, and the `AtEnd()` of a block command. -/
theorem witness_InReadTakesTheHeadOrWaits :
    (∀ x ∈ [(Instr.chkMagic, Pos.bytes []), (.copyMagic, .bytes (List.replicate 16 0)), (.rleEnc, .bytes [1]),
        (.pack, .bytes [0, 1, 2]), (.decBlock, .header []), (.blockToBen32, .header [1, 1, 0, 0, 0]),
        (.unpack, .payload { Payload.begin 1 1 1 with left := 1 }), (.decBlock, .payload (Payload.begin 1 1 0xFFFFFFFF)),
        (.ben32ToRuns, .words [] []), (.ben32ToBlock, .words [0, 0, 0] runs1)],
      wantsByte x.1 (inside (given [5] 1 1 1 1) x.1 x.2) = true ∧
      (inside (given [5] 1 1 1 1) x.1 x.2).inq = 5 :: [] ∧
      wantsByte x.1 (inside (given [] 1 1 1 1) x.1 x.2) = true ∧ (inside (given [] 1 1 1 1) x.1 x.2).inq = [] ∧
      (inside (given [] 1 1 1 1) x.1 x.2).inEof = false ∧
      wantsByte x.1 (inside (given [] 1 1 1 1 true) x.1 x.2) = true ∧
      (inside (given [] 1 1 1 1 true) x.1 x.2).inEof = true) ∧
    (∀ i ∈ [Instr.decBlock, .ben32ToRuns, .blockToBen32, .ben32ToBlock],
      peeksInput i (running (given []) i) = true ∧ (running (given []) i).inq = [] ∧
      (running (given []) i).inEof = false) := by decide

/-- ENC_MAGIC about to write its first byte, with `n` bytes in OUT. -/
def firstByte (n : Nat) : State := { writing (given []) .encMagic magicPlan with outq := List.replicate n 0 }

def firstBytePos : Output :=
  { items := magicPlan.lead.map Item.byte, form := .nothing, next := 0, closed := false, upd := {} }

/-- OUT full, and with room for exactly one byte. -/
theorem witness_OutWriteAppendsOrWaits :
    (∀ n ∈ [19, 20], (firstByte n).eng = .busyOutput ∧ (firstByte n).pos = .writing firstBytePos ∧
      (firstByte n).accN < 8 ∧ firstBytePos.items = .byte 0x53 :: firstBytePos.items.tail) ∧
    (firstByte 20).params.outDepth ≤ (firstByte 20).outq.length ∧
    (firstByte 19).outq.length < (firstByte 19).params.outDepth := by decide

/-- A PACK with `k` bits in the accumulator, `n` bytes in OUT, and only the flush left. -/
def flushing (k n : Nat) : State :=
  { writing (given [] 1 2 2) .pack { runs := [], lead := [], form := .packed 2 2, upd := {} } with
    acc := 1
    accN := k
    outq := List.replicate n 0
    pos := .writing { items := [.flush], form := .packed 2 2, next := 0, closed := true, upd := {} } }

def flushingPos : Output := { items := [.flush], form := .packed 2 2, next := 0, closed := true, upd := {} }

/-- The packer's two `OutWrite` positions: 8 and 23 bits held, and a flush of 1 and of 7 bits, each with OUT full and with
room for exactly one byte; a flush of no bit. -/
theorem witness_OutWriteAppendsOrWaits_packer :
    (∀ k ∈ [8, 23, 1, 7, 0], ∀ n ∈ [19, 20],
      (flushing k n).eng = .busyOutput ∧ (flushing k n).pos = .writing flushingPos ∧ (flushing k n).accN = k ∧
      flushingPos.items = .flush :: []) ∧
    (flushing 8 20).params.outDepth ≤ (flushing 8 20).outq.length ∧
    (flushing 8 19).outq.length < (flushing 8 19).params.outDepth := by decide

/-- R174's flush of the single bit 1: the byte 0x80. -/
theorem test_pack_flush :
    (after (exec .pack (flushing 1 0))).map (fun t => (t.outq, t.acc, t.accN)) = some ([0x80], 0, 0) := by decide

theorem witness_PhasesKeepTheirDiscipline :
    (∃ t, exec .rleEnc (inside (given [7] 1) .rleEnc (.bytes [])) = .next t ∧
      (inside (given [7] 1) .rleEnc (.bytes [])).eng = .busyInput) ∧
    (∃ t, exec .encMagic (writing (given []) .encMagic magicPlan) = .next t ∧
      (writing (given []) .encMagic magicPlan).eng = .busyOutput) ∧
    (∃ t, exec .nop (at_ .idle []) = .next t ∧ (at_ .idle []).eng = .idle) ∧
    (∃ t, exec .nop (at_ .error []) = .next t ∧ (at_ .error []).eng = .error) :=
  ⟨⟨_, rfl, by decide⟩, ⟨_, rfl, by decide⟩, ⟨_, rfl, by decide⟩, ⟨_, rfl, by decide⟩⟩

theorem witness_RegistersChangeOnlyAtCompletion :
    (∃ t, exec .rleEnc (inside (given [7] 1) .rleEnc (.bytes [])) = .next t ∧
      ¬ ((inside (given [7] 1) .rleEnc (.bytes [])).eng = .busyOutput ∧ t.eng = .idle)) ∧
    (∃ t, exec .decBlock done = .next t ∧ done.eng = .busyOutput ∧ t.eng = .idle) :=
  ⟨⟨_, rfl, by decide⟩, ⟨_, rfl, by decide, by decide⟩⟩

theorem witness_HostCannotDisturbTheRunningCommand :
    (∃ t, hostTurn done (.write 0x1004 4 0xD) = .next t ∧ done.eng.busy = true ∧
      isAbort done.params.base (.write 0x1004 4 0xD) = false) ∧
    (∃ t, hostTurn done (.read 0x1030 4) = .next t ∧ done.eng.busy = true ∧
      isAbort done.params.base (.read 0x1030 4) = false) :=
  ⟨⟨_, rfl, by decide, by decide⟩, ⟨_, rfl, by decide, by decide⟩⟩

/-- IN with room for exactly one more byte. -/
theorem witness_PushCommutesWithEngineStep :
    (inside (given (List.replicate 31 7) 1) .rleEnc (.bytes [])).inq ≠ [] ∧
    (inside (given (List.replicate 31 7) 1) .rleEnc (.bytes [])).inq.length <
      (inside (given (List.replicate 31 7) 1) .rleEnc (.bytes [])).params.inDepth ∧
    (inside (given (List.replicate 31 7) 1) .rleEnc (.bytes [])).inEof = false ∧
    ∃ t, exec .rleEnc (inside (given (List.replicate 31 7) 1) .rleEnc (.bytes [])) = .next t :=
  ⟨by decide, by decide, by decide, ⟨_, rfl⟩⟩

theorem accepted_running (s : State) (i : Instr) : Accepted (running s i) := ⟨rfl, rfl, rfl, rfl, rfl⟩

theorem witness_NopCompletes : Accepted (running (given [1, 2]) .nop) := accepted_running _ _

/-- OUT with room for exactly the 17 bytes. -/
theorem witness_EncMagicWritesTheMagic :
    Accepted (running { given [] with outq := [0, 0, 0] } .encMagic) ∧
      (running { given [] with outq := [0, 0, 0] } .encMagic).outq.length + 17 ≤
        (running { given [] with outq := [0, 0, 0] } .encMagic).params.outDepth :=
  ⟨accepted_running _ _, by decide⟩

theorem witness_ChkMagicAcceptsTheMagic :
    Accepted (running (given (magic ++ [9])) .chkMagic) ∧
      (running (given (magic ++ [9])) .chkMagic).inq = magic ++ [9] := ⟨accepted_running _ _, rfl⟩

theorem witness_CopyMagicCopiesTheMagic :
    Accepted (running (given (magic ++ [])) .copyMagic) ∧
      (running (given (magic ++ [])) .copyMagic).inq = magic ++ [] ∧
      (running (given (magic ++ [])) .copyMagic).outq.length + 17 ≤
        (running (given (magic ++ [])) .copyMagic).params.outDepth := ⟨accepted_running _ _, rfl, by decide⟩

/-- The labels of E2's second sample: 4 runs, as many as the run buffer holds. -/
def labels2 : List Half := [1, 1, 2, 2, 1, 2]

def forLabels (i : Instr) : State := running (given (labels2.flatMap labelBytes ++ [9]) 6) i

theorem witness_RleEncWritesTheRunRecords :
    Accepted (forLabels .rleEnc) ∧ (forLabels .rleEnc).latch.count.toNat = labels2.length ∧
      (forLabels .rleEnc).inq = labels2.flatMap labelBytes ++ [9] ∧ (∀ r ∈ rleEncode labels2, r.2 ≤ 65535) ∧
      (rleEncode labels2).length ≤ (forLabels .rleEnc).params.runBufDepth ∧
      (forLabels .rleEnc).outq.length + 4 * (rleEncode labels2).length ≤ (forLabels .rleEnc).params.outDepth := by
  unfold Accepted; decide

theorem witness_EncBlockWritesTheBlock :
    Accepted (forLabels .encBlock) ∧ (forLabels .encBlock).latch.count.toNat = labels2.length ∧
      (forLabels .encBlock).inq = labels2.flatMap labelBytes ++ [9] ∧ (∀ r ∈ rleEncode labels2, r.2 ≤ 65535) ∧
      (rleEncode labels2).length ≤ (forLabels .encBlock).params.runBufDepth ∧
      runs2 = (rleEncode labels2).map toRun ∧ (2, 2) = widths runs2 ∧ 2 = byteLen runs2.length 2 2 ∧
      2 ≤ 2 ^ 32 - 1 ∧
      (forLabels .encBlock).outq.length + (6 + 2) ≤ (forLabels .encBlock).params.outDepth := by
  unfold Accepted; decide

theorem witness_EncBen32WritesTheBlock :
    Accepted (forLabels .encBen32) ∧ (forLabels .encBen32).latch.count.toNat = labels2.length ∧
      (forLabels .encBen32).inq = labels2.flatMap labelBytes ++ [9] ∧ (∀ r ∈ rleEncode labels2, r.2 ≤ 65535) ∧
      (rleEncode labels2).length ≤ (forLabels .encBen32).params.runBufDepth ∧
      runs2 = (rleEncode labels2).map toRun ∧
      (forLabels .encBen32).outq.length + (4 * runs2.length + 4) ≤ (forLabels .encBen32).params.outDepth := by
  unfold Accepted; decide

def forRecords (i : Instr) : State := running (given (runs2.flatMap recBytes ++ [9]) 4 2 2) i

theorem witness_RleDecWritesTheLabels :
    Accepted (forRecords .rleDec) ∧ (forRecords .rleDec).latch.count.toNat = runs2.length ∧
      (forRecords .rleDec).inq = runs2.flatMap recBytes ++ [9] ∧
      runs2.length ≤ (forRecords .rleDec).params.runBufDepth ∧ (∀ r ∈ runs2, r.length ≠ 0) ∧
      totalLength runs2 ≤ 2 ^ 32 - 1 ∧
      (forRecords .rleDec).outq.length + 2 * totalLength runs2 ≤ (forRecords .rleDec).params.outDepth := by
  unfold Accepted; decide

theorem witness_WidthGivesTheWidths :
    Accepted (forRecords .width) ∧ (forRecords .width).latch.count.toNat = runs2.length ∧
      (forRecords .width).inq = runs2.flatMap recBytes ++ [9] ∧ (∀ r ∈ runs2, r.length ≠ 0) ∧
      byteLen runs2.length (widths runs2).1 (widths runs2).2 ≤ 2 ^ 32 - 1 := by
  unfold Accepted; decide

theorem witness_PackWritesThePayload :
    Accepted (forRecords .pack) ∧
      widthsLegal (forRecords .pack).latch.vb.toNat (forRecords .pack).latch.lb.toNat = true ∧
      (forRecords .pack).latch.count.toNat = runs2.length ∧
      (forRecords .pack).inq = runs2.flatMap recBytes ++ [9] ∧
      runs2.length ≤ (forRecords .pack).params.runBufDepth ∧ (∀ r ∈ runs2, r.length ≠ 0) ∧
      (∀ r ∈ runs2, r.value.toNat < 2 ^ (forRecords .pack).latch.vb.toNat ∧
        r.length.toNat < 2 ^ (forRecords .pack).latch.lb.toNat) ∧
      byteLen runs2.length (forRecords .pack).latch.vb.toNat (forRecords .pack).latch.lb.toNat ≤ 2 ^ 32 - 1 ∧
      (forRecords .pack).outq.length +
        byteLen runs2.length (forRecords .pack).latch.vb.toNat (forRecords .pack).latch.lb.toNat ≤
          (forRecords .pack).params.outDepth := by
  unfold Accepted; decide

theorem witness_RunsToBen32WritesTheBlock :
    Accepted (forRecords .runsToBen32) ∧ (forRecords .runsToBen32).latch.count.toNat = runs2.length ∧
      (forRecords .runsToBen32).inq = runs2.flatMap recBytes ++ [9] ∧
      runs2.length ≤ (forRecords .runsToBen32).params.runBufDepth ∧ (∀ r ∈ runs2, r.length ≠ 0) ∧
      (forRecords .runsToBen32).outq.length + (4 * runs2.length + 4) ≤
        (forRecords .runsToBen32).params.outDepth := by
  unfold Accepted; decide

def forUnpack : State := running (given ([0x6A, 0x59] ++ [9]) 0 2 2 2) .unpack

theorem witness_UnpackWritesTheRunRecords :
    Accepted forUnpack ∧ forUnpack.latch.bl.toNat = [(0x6A : Byte), 0x59].length ∧
      forUnpack.inq = [0x6A, 0x59] ++ [9] ∧
      unpack [0x6A, 0x59] forUnpack.latch.vb.toNat forUnpack.latch.lb.toNat forUnpack.latch.strict = .ok runs2 ∧
      runs2.length ≤ forUnpack.params.runBufDepth ∧
      forUnpack.outq.length + 4 * runs2.length ≤ forUnpack.params.outDepth :=
  ⟨accepted_running _ _, by decide, by decide, by decide, by decide, by decide⟩

def forBlock (i : Instr) : State := running (given (hdrBytes 2 2 2 ++ [0x6A, 0x59] ++ [9])) i

theorem witness_DecBlockWritesTheLabels :
    Accepted (forBlock .decBlock) ∧ (2 : Word).toNat = [(0x6A : Byte), 0x59].length ∧
      (forBlock .decBlock).inq = hdrBytes 2 2 2 ++ [0x6A, 0x59] ++ [9] ∧
      unpack [0x6A, 0x59] (2 : Byte).toNat (2 : Byte).toNat (forBlock .decBlock).latch.strict = .ok runs2 ∧
      runs2.length ≤ (forBlock .decBlock).params.runBufDepth ∧ totalLength runs2 ≤ 2 ^ 32 - 1 ∧
      (forBlock .decBlock).outq.length + 2 * totalLength runs2 ≤ (forBlock .decBlock).params.outDepth := by
  unfold Accepted; decide

theorem witness_BlockToBen32Transcodes :
    Accepted (forBlock .blockToBen32) ∧ (2 : Word).toNat = [(0x6A : Byte), 0x59].length ∧
      (forBlock .blockToBen32).inq = hdrBytes 2 2 2 ++ [0x6A, 0x59] ++ [9] ∧
      unpack [0x6A, 0x59] (2 : Byte).toNat (2 : Byte).toNat (forBlock .blockToBen32).latch.strict = .ok runs2 ∧
      runs2.length ≤ (forBlock .blockToBen32).params.runBufDepth ∧
      (forBlock .blockToBen32).outq.length + (4 * runs2.length + 4) ≤
        (forBlock .blockToBen32).params.outDepth := by
  unfold Accepted; decide

def forBen32 (i : Instr) : State := running (given (runs2.flatMap recBytes ++ [0, 0, 0, 0] ++ [9])) i

theorem witness_Ben32ToRunsWritesTheRunRecords :
    Accepted (forBen32 .ben32ToRuns) ∧
      (forBen32 .ben32ToRuns).inq = runs2.flatMap recBytes ++ [0, 0, 0, 0] ++ [9] ∧ (∀ r ∈ runs2, r.length ≠ 0) ∧
      ((forBen32 .ben32ToRuns).latch.strict = true → maximalRuns runs2 = true) ∧
      runs2.length ≤ (forBen32 .ben32ToRuns).params.runBufDepth ∧
      (forBen32 .ben32ToRuns).outq.length + 4 * runs2.length ≤ (forBen32 .ben32ToRuns).params.outDepth := by
  unfold Accepted; decide

theorem witness_Ben32ToBlockTranscodes :
    Accepted (forBen32 .ben32ToBlock) ∧
      (forBen32 .ben32ToBlock).inq = runs2.flatMap recBytes ++ [0, 0, 0, 0] ++ [9] ∧ (∀ r ∈ runs2, r.length ≠ 0) ∧
      ((forBen32 .ben32ToBlock).latch.strict = true → maximalRuns runs2 = true) ∧
      runs2.length ≤ (forBen32 .ben32ToBlock).params.runBufDepth ∧ (2, 2) = widths runs2 ∧
      2 = byteLen runs2.length 2 2 ∧ 2 ≤ 2 ^ 32 - 1 ∧
      (forBen32 .ben32ToBlock).outq.length + (6 + 2) ≤ (forBen32 .ben32ToBlock).params.outDepth := by
  unfold Accepted; decide

/-- A magic that differs in its last byte only. -/
theorem witness_WrongMagicRaisesFormatError :
    Accepted (running (given (magic.take 16 ++ [0x46] ++ [9])) .copyMagic) ∧
      (magic.take 16 ++ [(0x46 : Byte)]).length = 17 ∧
      (running (given (magic.take 16 ++ [0x46] ++ [9])) .copyMagic).inq = magic.take 16 ++ [0x46] ++ [9] ∧
      magic.take 16 ++ [(0x46 : Byte)] ≠ magic := ⟨accepted_running _ _, by decide, by decide, by decide⟩

/-- One byte short and no byte at all, for each kind of counted input. -/
theorem witness_ShortInputRaises :
    ∀ x ∈ [(Instr.chkMagic, List.replicate 16 0), (.copyMagic, []), (.rleEnc, [7]), (.encBlock, []),
        (.rleDec, [0, 1, 2]), (.width, []), (.pack, [0, 1, 2]), (.runsToBen32, [])],
      Accepted (running (given x.2 1 1 1 1 true) x.1) ∧ (running (given x.2 1 1 1 1 true) x.1).inEof = true ∧
      operandsPass x.1 (running (given x.2 1 1 1 1 true) x.1) = true ∧
      ((readsCounted x.1 = true ∧ (running (given x.2 1 1 1 1 true) x.1).inq.length <
          inputBytes x.1 (running (given x.2 1 1 1 1 true) x.1).latch) ∨
        (x.1 = .unpack ∧ (running (given x.2 1 1 1 1 true) x.1).inq.length <
          (running (given x.2 1 1 1 1 true) x.1).latch.bl.toNat)) := by
  unfold Accepted; decide

/-- The same for UNPACK: no payload byte of one. -/
theorem witness_ShortInputRaises_unpack :
    Accepted (running (given [] 0 1 1 1 true) .unpack) ∧ (running (given [] 0 1 1 1 true) .unpack).inEof = true ∧
      operandsPass .unpack (running (given [] 0 1 1 1 true) .unpack) = true ∧
      (running (given [] 0 1 1 1 true) .unpack).inq.length <
        (running (given [] 0 1 1 1 true) .unpack).latch.bl.toNat := by
  unfold Accepted; decide

/-- A header of 1 and of 5 bytes, and a payload without its last byte. -/
theorem witness_CutBlockRaisesTruncatedStream :
    ∀ bs ∈ [[(2 : Byte)], [2, 2, 0, 0, 0], hdrBytes 2 2 2 ++ [0x6A]],
      readsBenBlock .decBlock = true ∧ readsBenBlock .blockToBen32 = true ∧
      Accepted (running (given bs (eof := true)) .decBlock) ∧
      (running (given bs (eof := true)) .decBlock).inEof = true ∧
      (running (given bs (eof := true)) .decBlock).inq ≠ [] ∧
      ((running (given bs (eof := true)) .decBlock).inq.length < 6 ∨
        ((running (given bs (eof := true)) .decBlock).inq = hdrBytes 2 2 2 ++ [0x6A] ∧
          [(0x6A : Byte)].length < (2 : Word).toNat)) := by
  unfold Accepted; decide

/-- A word cut after its third byte, and a missing sentinel. -/
theorem witness_CutBlockRaisesTruncatedStream_ben32 :
    ∀ part ∈ [[(0 : Byte), 0, 0], []],
      readsBen32 .ben32ToRuns = true ∧ readsBen32 .ben32ToBlock = true ∧
      Accepted (running (given (runs1.flatMap recBytes ++ part) (eof := true)) .ben32ToRuns) ∧
      (running (given (runs1.flatMap recBytes ++ part) (eof := true)) .ben32ToRuns).inEof = true ∧
      (running (given (runs1.flatMap recBytes ++ part) (eof := true)) .ben32ToRuns).inq ≠ [] ∧
      (running (given (runs1.flatMap recBytes ++ part) (eof := true)) .ben32ToRuns).inq =
        runs1.flatMap recBytes ++ part ∧ part.length < 4 ∧ (∀ r ∈ runs1, recBytes r ≠ [0, 0, 0, 0]) := by
  unfold Accepted; decide

/-- Five runs: one more than the run buffer holds. -/
def labels5 : List Half := [1, 2, 1, 2, 1]

theorem witness_LabelCommandsCheckInOrder :
    ∀ i ∈ [Instr.rleEnc, .encBlock, .encBen32],
      (i = .rleEnc ∨ i = .encBlock ∨ i = .encBen32) ∧
      Accepted (running (given (labels5.flatMap labelBytes ++ []) 5) i) ∧
      (running (given (labels5.flatMap labelBytes ++ []) 5) i).latch.count.toNat = labels5.length ∧
      (running (given (labels5.flatMap labelBytes ++ []) 5) i).inq = labels5.flatMap labelBytes ++ [] ∧
      firstError
        [ ((rleEncode labels5).any fun r => decide (65535 < r.2), .runOverflow),
          (decide ((running (given (labels5.flatMap labelBytes ++ []) 5) i).params.runBufDepth <
            (rleEncode labels5).length), .runBufferFull),
          (i == .encBlock &&
            decide (2 ^ 32 - 1 < byteLen (rleEncode labels5).length (widths ((rleEncode labels5).map toRun)).1
              (widths ((rleEncode labels5).map toRun)).2), .lengthOverflow) ] = some .runBufferFull := by
  unfold Accepted; decide

/-- A zero length and a wide field, with the run buffer just large enough for RLE_DEC's four records. -/
def badRuns : List Run := [⟨4, 1⟩, ⟨1, 0⟩, ⟨4, 1⟩, ⟨1, 0⟩]

def forBadRuns (i : Instr) : State := running (given (badRuns.flatMap recBytes ++ []) 4 2 2) i

/-- A zero length and a wide field: in every command's list the zero length is found first. -/
theorem witness_RecordCommandsCheckInOrder :
    ∀ i ∈ [Instr.rleDec, .width, .pack, .runsToBen32],
      Accepted (forBadRuns i) ∧ (forBadRuns i).latch.count.toNat = badRuns.length ∧
      (forBadRuns i).inq = badRuns.flatMap recBytes ++ [] ∧
      firstError
        [ (decide ((forBadRuns i).latch.vb.toNat < 1 ∨ 16 < (forBadRuns i).latch.vb.toNat ∨
            (forBadRuns i).latch.lb.toNat < 1 ∨ 16 < (forBadRuns i).latch.lb.toNat), .widthError),
          (decide ((forBadRuns i).params.runBufDepth < (forBadRuns i).latch.count.toNat), .runBufferFull),
          (badRuns.any fun r => r.length == 0, .zeroLengthRun),
          (badRuns.any fun r => decide (2 ^ (forBadRuns i).latch.vb.toNat ≤ r.value.toNat ∨
            2 ^ (forBadRuns i).latch.lb.toNat ≤ r.length.toNat), .fieldOverflow),
          (decide (2 ^ 32 - 1 < byteLen badRuns.length (forBadRuns i).latch.vb.toNat
            (forBadRuns i).latch.lb.toNat), .lengthOverflow) ] = some .zeroLengthRun ∧
      firstError
        [ (decide ((forBadRuns i).params.runBufDepth < (forBadRuns i).latch.count.toNat), .runBufferFull),
          (badRuns.any fun r => r.length == 0, .zeroLengthRun),
          (decide (2 ^ 32 - 1 < totalLength badRuns), .countOverflow) ] = some .zeroLengthRun ∧
      firstError
        [ (badRuns.any fun r => r.length == 0, .zeroLengthRun),
          (decide (2 ^ 32 - 1 < byteLen badRuns.length (widths badRuns).1 (widths badRuns).2), .lengthOverflow) ] =
        some .zeroLengthRun := by
  unfold Accepted; decide

/-- Widths 0 and 17; COUNT one more than the run buffer holds, with the widths 16 and 1. -/
theorem witness_OperandChecksComeBeforeInput :
    (∀ x ∈ [(0, 1), (17, 1), (1, 0), (1, 17)],
      Accepted (running (given [] 5 x.1 x.2) .pack) ∧
      ((running (given [] 5 x.1 x.2) .pack).latch.vb.toNat < 1 ∨
        16 < (running (given [] 5 x.1 x.2) .pack).latch.vb.toNat ∨
        (running (given [] 5 x.1 x.2) .pack).latch.lb.toNat < 1 ∨
        16 < (running (given [] 5 x.1 x.2) .pack).latch.lb.toNat)) ∧
    Accepted (running (given [] 5 16 1) .pack) ∧
    ¬ ((running (given [] 5 16 1) .pack).latch.vb.toNat < 1 ∨ 16 < (running (given [] 5 16 1) .pack).latch.vb.toNat ∨
      (running (given [] 5 16 1) .pack).latch.lb.toNat < 1 ∨ 16 < (running (given [] 5 16 1) .pack).latch.lb.toNat) ∧
    (running (given [] 5 16 1) .pack).params.runBufDepth < (running (given [] 5 16 1) .pack).latch.count.toNat := by
  unfold Accepted; decide

/-- The list of R275 for a payload with the given widths. -/
def payloadChecks (P : List Byte) (vb lb depth : Nat) (strict : Bool) : List (Bool × ErrorCode) :=
  [ (decide (vb < 1 ∨ 16 < vb ∨ lb < 1 ∨ 16 < lb), .widthError),
    (strict && (parsePairs P vb lb).2.any id, .payloadError),
    (strict && decide (8 ≤ (parsePairs P vb lb).2.length), .payloadError),
    (strict && !maximalRuns (parsePairs P vb lb).1, .payloadError),
    (strict && decide (widths (parsePairs P vb lb).1 ≠ (vb, lb)), .widthError),
    (decide (depth < (parsePairs P vb lb).1.length), .runBufferFull) ]

/-- Each check of the list found first: a 1 bit in the padding; 8 zero bits of padding; adjacent equal values; widths not
minimal; five runs, one too many. -/
theorem test_payload_checks :
    firstError (payloadChecks [0x48] 1 1 4 true) = some .payloadError ∧
    firstError (payloadChecks [0x7B, 0x00] 2 2 4 true) = some .payloadError ∧
    firstError (payloadChecks [0x50] 1 1 4 true) = some .payloadError ∧
    firstError (payloadChecks [0x38] 3 2 4 true) = some .widthError ∧
    firstError (payloadChecks [0x77, 0x40] 1 1 4 true) = some .runBufferFull ∧
    firstError (payloadChecks [0x38] 3 2 4 false) = none := by decide

def forPayload : State := running (given ([0x77, 0x40] ++ [9]) 0 1 1 2) .unpack

theorem witness_UnpackChecksInOrder :
    Accepted forPayload ∧ forPayload.latch.bl.toNat = [(0x77 : Byte), 0x40].length ∧
      forPayload.inq = [0x77, 0x40] ++ [9] ∧
      firstError (payloadChecks [0x77, 0x40] forPayload.latch.vb.toNat forPayload.latch.lb.toNat
        forPayload.params.runBufDepth forPayload.latch.strict) = some .runBufferFull := by
  unfold Accepted; decide

def forBadBlock (i : Instr) : State := running (given (hdrBytes 1 1 2 ++ [0x77, 0x40] ++ [9])) i

/-- The same payload as a block. -/
theorem witness_BenBlockChecksInOrder :
    ∀ i ∈ [Instr.decBlock, .blockToBen32],
      (i = .decBlock ∨ i = .blockToBen32) ∧ Accepted (forBadBlock i) ∧
      (2 : Word).toNat = [(0x77 : Byte), 0x40].length ∧
      (forBadBlock i).inq = hdrBytes 1 1 2 ++ [0x77, 0x40] ++ [9] ∧
      firstError (payloadChecks [0x77, 0x40] (1 : Byte).toNat (1 : Byte).toNat (forBadBlock i).params.runBufDepth
        (forBadBlock i).latch.strict ++
        [(i == .decBlock && decide (2 ^ 32 - 1 < totalLength (parsePairs [0x77, 0x40] 1 1).1), .countOverflow)]) =
        some .runBufferFull := by
  unfold Accepted; decide

/-- A record of length 0 that is not the sentinel, after an equal value. -/
def badWords : List Run := [⟨5, 1⟩, ⟨5, 0⟩]

def forBadWords (i : Instr) : State := running (given (badWords.flatMap recBytes ++ [0, 0, 0, 0] ++ [])) i

/-- The zero length is found before the equal values. -/
theorem witness_Ben32ChecksInOrder :
    ∀ i ∈ [Instr.ben32ToRuns, .ben32ToBlock],
      (i = .ben32ToRuns ∨ i = .ben32ToBlock) ∧ Accepted (forBadWords i) ∧
      (forBadWords i).inq = badWords.flatMap recBytes ++ [0, 0, 0, 0] ++ [] ∧
      (∀ r ∈ badWords, recBytes r ≠ [0, 0, 0, 0]) ∧
      firstError
        [ (badWords.any fun r => r.length == 0, .zeroLengthRun),
          ((forBadWords i).latch.strict && !maximalRuns badWords, .payloadError),
          (decide ((forBadWords i).params.runBufDepth < badWords.length), .runBufferFull),
          (i == .ben32ToBlock &&
            decide (2 ^ 32 - 1 < byteLen badWords.length (widths badWords).1 (widths badWords).2), .lengthOverflow) ] =
        some .zeroLengthRun := by
  unfold Accepted; decide

/-- An RLE_ENC waiting for its second byte meets the whole invariant, and its next step is a next state. -/
theorem witness_StepKeepsTheInvariant :
    Inv (inside (given [7] 1) .rleEnc (.bytes [0])) ∧
      ∃ t, step (inside (given [7] 1) .rleEnc (.bytes [0])) = .next t := by
  refine ⟨⟨by decide, ?_, ?_, ?_, ?_⟩, _, rfl⟩
  · unfold StatusAgrees; decide
  · unfold WithinCapacity; decide
  · unfold AccBounded; decide
  · exact ⟨by decide, by decide, by decide, by decide⟩

theorem witness_StepKeepsStatusInvariants :
    StatusAgrees done ∧ ∃ t, step done = .next t := ⟨by unfold StatusAgrees; decide, _, rfl⟩

/-- The invariant also holds where the next turn is refused. -/
theorem witness_NoFaultUnderTheInvariant :
    Inv ((inside (given [7] 1) .rleEnc (.bytes [0])).setTurns [.access (.read 0x1100 4)]) := by
  refine ⟨by decide, ?_, ?_, ?_, ?_⟩
  · unfold StatusAgrees; decide
  · unfold WithinCapacity; decide
  · unfold AccBounded; decide
  · exact ⟨by decide, by decide, by decide, by decide⟩

theorem witness_ResetMeetsTheInvariant : params.wellFormed = true := by decide

theorem witness_RleDecodeUndoesEncode :
    (rleEncode labels1)[0]? = some (1, 3) ∧ (rleEncode labels1)[1]? = some (2, 3) ∧ (1, 3) ∈ rleEncode labels1 := by
  decide

/-- Minimal maximal runs, runs that are not maximal, and widths that are not minimal, all at the widths' edge. -/
theorem witness_UnpackUndoesPack :
    widthsLegal 2 2 = true ∧
    (∀ r ∈ runs2, r.value.toNat < 2 ^ 2 ∧ r.length.toNat < 2 ^ 2 ∧ r.length ≠ 0) ∧
    (maximalRuns runs2 = true ∧ widths runs2 = (2, 2)) ∧
    (∀ r ∈ ([⟨3, 3⟩, ⟨3, 3⟩] : List Run), r.value.toNat < 2 ^ 2 ∧ r.length.toNat < 2 ^ 2 ∧ r.length ≠ 0) ∧
    maximalRuns [⟨3, 3⟩, ⟨3, 3⟩] = false ∧ widthsLegal 16 16 = true ∧
    (∀ r ∈ runs2, r.value.toNat < 2 ^ 16 ∧ r.length.toNat < 2 ^ 16 ∧ r.length ≠ 0) ∧ widths runs2 ≠ (16, 16) := by
  decide

/-- E2's second block: accepted, and the encoding of its labels. -/
theorem witness_StrictDecodingIsCanonical :
    (2 : Word).toNat = [(0x6A : Byte), 0x59].length ∧
      unpack [0x6A, 0x59] (2 : Byte).toNat (2 : Byte).toNat true = .ok runs2 ∧
      (∀ r ∈ rleEncode labels2, r.2 ≤ 65535) ∧
      hdrBytes 2 2 2 ++ [0x6A, 0x59] = encodeBlock (sampleRuns labels2) := by decide

/-- Depth 1: a sample of one run, and an empty sample. -/
theorem witness_DecodeFileUndoesEncodeFile :
    ∀ xs ∈ ([[5, 5, 5], []] : List (List Half)), encodable 1 xs = true := by decide

/-- R208: the stop of the block loop with an error code is followed by the abort. -/
theorem test_abort_after_error_stop :
    (abortIfStopped (at_ .error []) (.stopped 3)).eng = .idle ∧ (abortIfStopped (at_ .error []) .unfinished).eng = .error :=
  by decide

/-! ### The checks that need long inputs: a general case, then its first instance -/

/-- `k` equal runs. -/
def manyRuns (k : Nat) (r : Run) : List Run := List.replicate k r

theorem manyRuns_length (k : Nat) (r : Run) : (manyRuns k r).length = k := List.length_replicate

theorem manyRuns_total (k : Nat) (r : Run) : totalLength (manyRuns k r) = k * r.length.toNat := by
  simp [totalLength, manyRuns]

theorem manyRuns_any (p : Run → Bool) (k : Nat) (r : Run) (h : p r = false) : (manyRuns k r).any p = false := by
  simp [manyRuns, h]

theorem maxOf_replicate (k x : Nat) : maxOf (List.replicate (k + 1) x) = x := by
  induction k with
  | zero => simp [maxOf]
  | succ k ih => rw [List.replicate_succ, maxOf, ih, Nat.max_self]

theorem manyRuns_widths (k : Nat) (h : 1 ≤ k) (r : Run) :
    widths (manyRuns k r) = (max 1 (bitsNeeded r.value.toNat), bitsNeeded r.length.toNat) := by
  obtain ⟨m, rfl⟩ := Nat.exists_eq_add_of_le' h
  have hm : ∀ f : Run → Nat, (r :: List.replicate m r).map f = List.replicate (m + 1) (f r) := by
    intro f; rw [List.map_cons, List.map_replicate, List.replicate_succ]
  rw [manyRuns, List.replicate_succ, widths, hm, hm, maxOf_replicate, maxOf_replicate]

/-- The run of 65535 labels 0. -/
def longRun : Run := ⟨0, 0xFFFF⟩

theorem longRun_bits (bs : List Byte) :
    bitString (recBytes longRun ++ bs) = (List.replicate 16 false ++ List.replicate 16 true) ++ bitString bs := by
  rw [bitString, List.flatMap_append]; rfl

theorem parseLoop_longRuns (k : Nat) :
    ∀ m, parseLoop 16 16 (k + m) (bitString ((manyRuns k longRun).flatMap recBytes)) = (manyRuns k longRun, []) := by
  induction k with
  | zero =>
    intro m
    cases m <;> rfl
  | succ k ih =>
    intro m
    have hs : manyRuns (k + 1) longRun = longRun :: manyRuns k longRun := List.replicate_succ
    have hf : k + 1 + m = (k + m) + 1 := by omega
    rw [hs, List.flatMap_cons, longRun_bits, hf, parseLoop]
    generalize hB : bitString ((manyRuns k longRun).flatMap recBytes) = B at *
    have hl : ¬ ((List.replicate 16 false ++ List.replicate 16 true) ++ B).length < 16 + 16 := by
      simp only [List.length_append, List.length_replicate]; omega
    have hd : ((List.replicate 16 false ++ List.replicate 16 true) ++ B).drop (16 + 16) = B := rfl
    have hv : ((List.replicate 16 false ++ List.replicate 16 true) ++ B).take 16 = List.replicate 16 false := rfl
    have hn : (((List.replicate 16 false ++ List.replicate 16 true) ++ B).drop 16).take 16 = List.replicate 16 true := rfl
    rw [if_neg hl, hd, hv, hn, ih m]
    rfl

theorem parsePairs_longRuns (k : Nat) :
    parsePairs ((manyRuns k longRun).flatMap recBytes) 16 16 = (manyRuns k longRun, []) := by
  have hk : (bitString ((manyRuns k longRun).flatMap recBytes)).length = k + (31 * k) := by
    rw [bitString_length, flatMap_recBytes_length, manyRuns_length]; omega
  rw [parsePairs, hk, parseLoop_longRuns]

/-- A block of `k` long runs with widths 16 and 16, STRICT = 0, and a run buffer of `k` runs. -/
def longBlock (k : Nat) (i : Instr) : State :=
  { running (given (hdrBytes 16 16 (BitVec.ofNat 32 (4 * k)) ++ (manyRuns k longRun).flatMap recBytes ++ [])
      (strict := false)) i with
    params := { params with runBufDepth := k } }

/-- 65537 long runs are the most labels a 32-bit count holds; 65538 are too many. -/
def LongBlockOverflows (k : Nat) : Prop :=
    Accepted (longBlock k .decBlock) ∧
      (BitVec.ofNat 32 (4 * k)).toNat = ((manyRuns k longRun).flatMap recBytes).length ∧
      (longBlock k .decBlock).inq =
        hdrBytes 16 16 (BitVec.ofNat 32 (4 * k)) ++ (manyRuns k longRun).flatMap recBytes ++ [] ∧
      firstError (payloadChecks ((manyRuns k longRun).flatMap recBytes) (16 : Byte).toNat (16 : Byte).toNat
        (longBlock k .decBlock).params.runBufDepth (longBlock k .decBlock).latch.strict ++
        [(Instr.decBlock == .decBlock &&
          decide (2 ^ 32 - 1 < totalLength (parsePairs ((manyRuns k longRun).flatMap recBytes) (16 : Byte).toNat
            (16 : Byte).toNat).1), .countOverflow)]) = some .countOverflow

theorem longBlock_countOverflow (k : Nat) (hk : 65538 ≤ k) (hw : 4 * k < 2 ^ 32) : LongBlockOverflows k := by
  unfold LongBlockOverflows
  refine ⟨⟨rfl, rfl, rfl, rfl, rfl⟩, ?_, rfl, ?_⟩
  · rw [flatMap_recBytes_length, manyRuns_length, BitVec.toNat_ofNat, Nat.mod_eq_of_lt hw]
  · have h16 : (16 : Byte).toNat = 16 := rfl
    have hs : (longBlock k .decBlock).latch.strict = false := rfl
    have hd : (longBlock k .decBlock).params.runBufDepth = k := rfl
    have ht : 2 ^ 32 - 1 < k * longRun.length.toNat := by
      have : longRun.length.toNat = 65535 := rfl
      rw [this]; omega
    simp only [payloadChecks, h16, hs, hd, parsePairs_longRuns, manyRuns_length, manyRuns_total, ht, firstError,
      List.cons_append, List.nil_append, Bool.false_and, Nat.lt_irrefl, decide_false, decide_true, Bool.and_true]
    rfl

theorem witness_BenBlockChecksInOrder_countOverflow : LongBlockOverflows 65538 :=
  longBlock_countOverflow 65538 (Nat.le_refl _) (by norm_num)

/-- `k` run records of a command, with a run buffer of `k` runs. -/
def manyRecords (k : Nat) (r : Run) (i : Instr) : State :=
  { running (given ((manyRuns k r).flatMap recBytes ++ []) k 16 16 (strict := false)) i with
    params := { params with runBufDepth := k } }

def ManyRecordsMeet (k : Nat) (r : Run) (i : Instr) : Prop :=
    Accepted (manyRecords k r i) ∧ (manyRecords k r i).latch.count.toNat = (manyRuns k r).length ∧
      (manyRecords k r i).inq = (manyRuns k r).flatMap recBytes ++ []

theorem manyRecords_meets (k : Nat) (r : Run) (i : Instr) (hk : k < 2 ^ 32) : ManyRecordsMeet k r i := by
  unfold ManyRecordsMeet
  refine ⟨⟨rfl, rfl, rfl, rfl, rfl⟩, ?_, rfl⟩
  have hc : (manyRecords k r i).latch.count = BitVec.ofNat 32 k := rfl
  rw [manyRuns_length, hc, BitVec.toNat_ofNat, Nat.mod_eq_of_lt hk]

/-- RLE_DEC: V41.18's records. -/
def RleDecOverflows (k : Nat) : Prop :=
    firstError
      [ (decide ((manyRecords k longRun .rleDec).params.runBufDepth <
          (manyRecords k longRun .rleDec).latch.count.toNat), .runBufferFull),
        ((manyRuns k longRun).any fun r => r.length == 0, .zeroLengthRun),
        (decide (2 ^ 32 - 1 < totalLength (manyRuns k longRun)), .countOverflow) ] = some .countOverflow

theorem rleDec_countOverflow (k : Nat) (hk : 65538 ≤ k) (hw : k < 2 ^ 32) : RleDecOverflows k := by
  unfold RleDecOverflows
  have hd : (manyRecords k longRun .rleDec).params.runBufDepth = k := rfl
  have ht : 2 ^ 32 - 1 < k * longRun.length.toNat := by
    have : longRun.length.toNat = 65535 := rfl
    rw [this]; omega
  have hz := manyRuns_any (fun r => r.length == 0) k longRun rfl
  rw [(manyRecords_meets k longRun .rleDec hw).2.1, manyRuns_length, hd, hz, manyRuns_total]
  simp only [firstError, ht, Nat.lt_irrefl, decide_false, decide_true]
  rfl

theorem witness_RecordCommandsCheckInOrder_countOverflow :
    ManyRecordsMeet 65538 longRun .rleDec ∧ RleDecOverflows 65538 :=
  And.intro (manyRecords_meets 65538 longRun .rleDec (by norm_num))
    (rleDec_countOverflow 65538 (Nat.le_refl _) (by norm_num))

/-- The widest run. -/
def wideRun : Run := ⟨0xFFFF, 0xFFFF⟩

theorem wideRun_byteLen (k : Nat) (h : 2 ^ 30 ≤ k) :
    2 ^ 32 - 1 < byteLen (manyRuns k wideRun).length (widths (manyRuns k wideRun)).1 (widths (manyRuns k wideRun)).2 := by
  have hv : max 1 (bitsNeeded wideRun.value.toNat) = 16 := by decide
  have hl : bitsNeeded wideRun.length.toNat = 16 := by decide
  rw [manyRuns_widths k (by omega), manyRuns_length, hv, hl, byteLen, ceilDiv]
  omega

/-- WIDTH and PACK: 2^30 of the widest runs are one byte too many for the payload length. -/
def RecordsOverflow (k : Nat) : Prop :=
    firstError
      [ ((manyRuns k wideRun).any fun r => r.length == 0, .zeroLengthRun),
        (decide (2 ^ 32 - 1 < byteLen (manyRuns k wideRun).length (widths (manyRuns k wideRun)).1
          (widths (manyRuns k wideRun)).2), .lengthOverflow) ] = some .lengthOverflow ∧
    firstError
      [ (decide ((16 : Byte).toNat < 1 ∨ 16 < (16 : Byte).toNat ∨ (16 : Byte).toNat < 1 ∨ 16 < (16 : Byte).toNat),
          .widthError),
        (decide ((manyRecords k wideRun .pack).params.runBufDepth <
          (manyRecords k wideRun .pack).latch.count.toNat), .runBufferFull),
        ((manyRuns k wideRun).any fun r => r.length == 0, .zeroLengthRun),
        ((manyRuns k wideRun).any fun r => decide (2 ^ 16 ≤ r.value.toNat ∨ 2 ^ 16 ≤ r.length.toNat), .fieldOverflow),
        (decide (2 ^ 32 - 1 < byteLen (manyRuns k wideRun).length 16 16), .lengthOverflow) ] =
      some .lengthOverflow

theorem records_lengthOverflow (k : Nat) (h : 2 ^ 30 ≤ k) (hw : k < 2 ^ 32) : RecordsOverflow k := by
  unfold RecordsOverflow
  have hz := manyRuns_any (fun r => r.length == 0) k wideRun rfl
  have hf := manyRuns_any (fun r => decide (2 ^ 16 ≤ r.value.toNat ∨ 2 ^ 16 ≤ r.length.toNat)) k wideRun (by decide)
  have hd : (manyRecords k wideRun .pack).params.runBufDepth = k := rfl
  have hb : 2 ^ 32 - 1 < byteLen k 16 16 := by rw [byteLen, ceilDiv]; omega
  constructor
  · simp only [firstError, hz, wideRun_byteLen k h, decide_true]; rfl
  · rw [(manyRecords_meets k wideRun .pack hw).2.1, manyRuns_length, hd, hz, hf]
    simp only [firstError, hb, Nat.lt_irrefl, decide_false, decide_true]
    rfl

theorem witness_RecordCommandsCheckInOrder_lengthOverflow :
    ManyRecordsMeet 1073741824 wideRun .width ∧ ManyRecordsMeet 1073741824 wideRun .pack ∧ RecordsOverflow 1073741824 :=
  And.intro (manyRecords_meets 1073741824 wideRun .width (by norm_num))
    (And.intro (manyRecords_meets 1073741824 wideRun .pack (by norm_num))
      (records_lengthOverflow 1073741824 (by norm_num) (by norm_num)))

/-- A ben32 block of `k` of the widest runs, STRICT = 0. -/
def wideWords (k : Nat) : State :=
  { running (given ((manyRuns k wideRun).flatMap recBytes ++ [0, 0, 0, 0] ++ []) (strict := false)) .ben32ToBlock with
    params := { params with runBufDepth := k } }

def Ben32Overflows (k : Nat) : Prop :=
    Accepted (wideWords k) ∧
      (wideWords k).inq = (manyRuns k wideRun).flatMap recBytes ++ [0, 0, 0, 0] ++ [] ∧
      (∀ r ∈ manyRuns k wideRun, recBytes r ≠ [0, 0, 0, 0]) ∧
      firstError
        [ ((manyRuns k wideRun).any fun r => r.length == 0, .zeroLengthRun),
          ((wideWords k).latch.strict && !maximalRuns (manyRuns k wideRun), .payloadError),
          (decide ((wideWords k).params.runBufDepth < (manyRuns k wideRun).length), .runBufferFull),
          (Instr.ben32ToBlock == .ben32ToBlock &&
            decide (2 ^ 32 - 1 < byteLen (manyRuns k wideRun).length (widths (manyRuns k wideRun)).1
              (widths (manyRuns k wideRun)).2), .lengthOverflow) ] = some .lengthOverflow

theorem ben32_lengthOverflow (k : Nat) (h : 2 ^ 30 ≤ k) : Ben32Overflows k := by
  unfold Ben32Overflows
  have hz := manyRuns_any (fun r => r.length == 0) k wideRun rfl
  have hs : (wideWords k).latch.strict = false := rfl
  have hd : (wideWords k).params.runBufDepth = k := rfl
  refine ⟨⟨rfl, rfl, rfl, rfl, rfl⟩, rfl, ?_, ?_⟩
  · intro r hr
    rw [List.eq_of_mem_replicate hr]; decide
  · have hb := wideRun_byteLen k h
    rw [hz, hs, hd]
    simp only [firstError, hb, decide_true, Bool.false_and, Bool.and_true]
    rw [manyRuns_length]
    simp

theorem witness_Ben32ChecksInOrder_lengthOverflow : Ben32Overflows 1073741824 :=
  ben32_lengthOverflow 1073741824 (by norm_num)

/-- `k` equal labels are one run of length `k`. -/
theorem rleScan_replicate (x : Half) (k : Nat) : ∀ n, rleScan x n (List.replicate k x) = [(x, n + k)] := by
  induction k with
  | zero => intro n; rfl
  | succ k ih => intro n; rw [List.replicate_succ, rleScan, if_pos rfl, ih]; congr 2; omega

/-- `k` labels 7, COUNT = k. -/
def equalLabels (k : Nat) : List Half := List.replicate k 7

def forEqualLabels (k : Nat) (i : Instr) : State := running (given ((equalLabels k).flatMap labelBytes ++ []) k) i

/-- V41.6 and V43.13's case: 65536 equal labels are one too many for a run, and RUN_OVERFLOW is the first check. -/
def LabelsOverflow (k : Nat) (i : Instr) : Prop :=
    Accepted (forEqualLabels k i) ∧ (forEqualLabels k i).latch.count.toNat = (equalLabels k).length ∧
      (forEqualLabels k i).inq = (equalLabels k).flatMap labelBytes ++ [] ∧
      ∀ rest, firstError (((rleEncode (equalLabels k)).any fun r => decide (65535 < r.2), .runOverflow) :: rest) =
        some .runOverflow

theorem labels_runOverflow (k : Nat) (h : 65536 ≤ k) (hw : k < 2 ^ 32) (i : Instr) : LabelsOverflow k i := by
  unfold LabelsOverflow
  refine ⟨⟨rfl, rfl, rfl, rfl, rfl⟩, ?_, rfl, ?_⟩
  · have hc : (forEqualLabels k i).latch.count = BitVec.ofNat 32 k := rfl
    rw [hc, equalLabels, List.length_replicate, BitVec.toNat_ofNat, Nat.mod_eq_of_lt hw]
  · intro rest
    obtain ⟨m, rfl⟩ := Nat.exists_eq_add_of_le' (show 1 ≤ k by omega)
    have : rleEncode (equalLabels (m + 1)) = [(7, 1 + m)] := rleScan_replicate 7 m 1
    have hm : 65535 < 1 + m := by omega
    simp [firstError, this, hm]

theorem witness_LabelCommandsCheckInOrder_runOverflow (i : Instr) : LabelsOverflow 65536 i :=
  labels_runOverflow 65536 (Nat.le_refl _) (by norm_num) i

/-- `k` times the labels 0xFFFF and 0: `2 k` runs of length 1 with a value field of 16 bits and a length field of 1. -/
def alternating : Nat → List Half
  | 0 => []
  | k + 1 => 0xFFFF :: 0 :: alternating k

def alternatingRuns : Nat → List (Half × Nat)
  | 0 => []
  | k + 1 => (0xFFFF, 1) :: (0, 1) :: alternatingRuns k

theorem alternating_length (k : Nat) : (alternating k).length = 2 * k := by
  induction k with
  | zero => rfl
  | succ k ih => simp only [alternating, List.length_cons, ih]; omega

theorem alternatingRuns_length (k : Nat) : (alternatingRuns k).length = 2 * k := by
  induction k with
  | zero => rfl
  | succ k ih => simp only [alternatingRuns, List.length_cons, ih]; omega

theorem rleEncode_alternating (k : Nat) : rleEncode (alternating k) = alternatingRuns k := by
  have hne : ¬ ((0 : Half) = 0xFFFF) := by decide
  have hen : ¬ ((0xFFFF : Half) = 0) := by decide
  have key : ∀ k, rleScan 0 1 (alternating k) = (0, 1) :: alternatingRuns k := by
    intro k
    induction k with
    | zero => rfl
    | succ k ih => rw [alternating, rleScan, if_neg hen, rleScan, if_neg hne, ih, alternatingRuns]
  cases k with
  | zero => rfl
  | succ k => rw [alternating, rleEncode, rleScan, if_neg hne, key, alternatingRuns]

theorem alternatingRuns_short (k : Nat) : ∀ r ∈ alternatingRuns k, r.2 = 1 := by
  induction k with
  | zero => intro r h; cases h
  | succ k ih =>
    intro r h
    simp only [alternatingRuns, List.mem_cons] at h
    rcases h with rfl | rfl | h
    · rfl
    · rfl
    · exact ih r h

theorem alternatingRuns_max (k : Nat) :
    maxOf (((alternatingRuns (k + 1)).map toRun).map fun r => r.value.toNat) = 65535 ∧
      maxOf (((alternatingRuns (k + 1)).map toRun).map fun r => r.length.toNat) = 1 := by
  induction k with
  | zero => decide
  | succ k ih =>
    rw [alternatingRuns]
    simp only [List.map_cons, maxOf]
    rw [ih.1, ih.2]
    decide

theorem alternatingRuns_widths (k : Nat) (h : 1 ≤ k) : widths ((alternatingRuns k).map toRun) = (16, 1) := by
  obtain ⟨m, rfl⟩ := Nat.exists_eq_add_of_le' h
  have hm := alternatingRuns_max m
  rw [alternatingRuns] at hm ⊢
  simp only [List.map_cons, widths] at hm ⊢
  rw [hm.1, hm.2]
  decide

/-- ENC_BLOCK on `2 k` alternating labels, with a run buffer of as many runs. -/
def forAlternating (k : Nat) : State :=
  { running (given ((alternating k).flatMap labelBytes ++ []) (2 * k)) .encBlock with
    params := { params with runBufDepth := 2 * k } }

def EncBlockOverflows (k : Nat) : Prop :=
    Accepted (forAlternating k) ∧ (forAlternating k).latch.count.toNat = (alternating k).length ∧
      (forAlternating k).inq = (alternating k).flatMap labelBytes ++ [] ∧
      firstError
        [ ((rleEncode (alternating k)).any fun r => decide (65535 < r.2), .runOverflow),
          (decide ((forAlternating k).params.runBufDepth < (rleEncode (alternating k)).length), .runBufferFull),
          (Instr.encBlock == .encBlock &&
            decide (2 ^ 32 - 1 < byteLen (rleEncode (alternating k)).length
              (widths ((rleEncode (alternating k)).map toRun)).1
              (widths ((rleEncode (alternating k)).map toRun)).2), .lengthOverflow) ] = some .lengthOverflow

theorem encBlock_lengthOverflow (k : Nat) (h : 1010580541 ≤ k) (hw : 2 * k < 2 ^ 32) : EncBlockOverflows k := by
  unfold EncBlockOverflows
  refine ⟨⟨rfl, rfl, rfl, rfl, rfl⟩, ?_, rfl, ?_⟩
  · have hc : (forAlternating k).latch.count = BitVec.ofNat 32 (2 * k) := rfl
    rw [hc, alternating_length, BitVec.toNat_ofNat, Nat.mod_eq_of_lt hw]
  · have hd : (forAlternating k).params.runBufDepth = 2 * k := rfl
    have hr : ((alternatingRuns k).any fun r => decide (65535 < r.2)) = false := by
      rw [List.any_eq_false]
      intro r hr
      rw [alternatingRuns_short k r hr]
      decide
    have hb : 2 ^ 32 - 1 < byteLen (2 * k) 16 1 := by rw [byteLen, ceilDiv]; omega
    rw [rleEncode_alternating, hr, hd, alternatingRuns_length, alternatingRuns_widths k (by omega)]
    simp only [firstError, hb, Nat.lt_irrefl, decide_false, decide_true]
    rfl

theorem witness_LabelCommandsCheckInOrder_lengthOverflow : EncBlockOverflows 1010580541 :=
  encBlock_lengthOverflow 1010580541 (Nat.le_refl _) (by norm_num)

end Sys2Proof.Tests
end

/-! ## Turns, and reads and writes at an offset of the register map -/

namespace Sys2Proof.Machine

open Sys2Proof

/-! ### Turns -/

theorem engineTurn_of_not_busy {s : State} (hb : s.eng.busy = false) : engineTurn s = .next s := by
  simp [engineTurn, hb]

theorem engineTurn_of_fetch {s : State} {i : Instr} (hb : s.eng.busy = true) (hf : s.fetch = .ok i) :
    engineTurn s = exec i s := by
  simp [engineTurn, hb, hf]

theorem step_of_no_turns {s : State} (h : s.turns = []) : step s = engineTurn s := by simp [step, h]

theorem step_of_engine_turn {s : State} {ts : List Turn} (h : s.turns = .engine :: ts) :
    step s = engineTurn (s.setTurns ts) := by
  simp [step, h]

/-- Settles O4: the engine has the turn when the list of turns is empty or names it. -/
theorem stepRunsTheLatchedCommand : Obligations.StepRunsTheLatchedCommand := by
  unfold Obligations.StepRunsTheLatchedCommand
  refine ⟨fun s i ht hb hd => ?_, fun s ts i ht hb hd => ?_, fun s ht hb => ?_, fun s ts ht hb => ?_⟩
  · rw [step_of_no_turns ht, engineTurn_of_fetch hb hd]
  · rw [step_of_engine_turn ht, engineTurn_of_fetch (s := s.setTurns ts) hb hd]
  · rw [step_of_no_turns ht, engineTurn_of_not_busy hb]
  · rw [step_of_engine_turn ht, engineTurn_of_not_busy (s := s.setTurns ts) hb]

/-! ### Accesses at an offset -/

/-- R67: an aligned 32-bit access at an offset of the 256-byte space is inside the interface. -/
theorem problem_eq_none_of_offset {base off : Nat} {a : Access} (hb : a.bytes = 4) (ha : a.addr = base + off)
    (h : off < 256) (h4 : off % 4 = 0) : a.problem base = none :=
  (problem_eq_none_iff base a).2 ⟨hb, by omega, by omega, by omega⟩

theorem readAt_eq (s : State) {off : Nat} (h : off < 256) (h4 : off % 4 = 0) :
    readAt s off = .next (s.readReg (regAt off)) := by
  have hp := problem_eq_none_of_offset (a := .read (s.params.base + off) 4) rfl rfl h h4
  simp [readAt, hostTurn, hp]

theorem writeAt_eq (s : State) {off : Nat} (h : off < 256) (h4 : off % 4 = 0) (v : Word) :
    writeAt s off v = .next (s.writeReg (regAt off) v) := by
  have hp := problem_eq_none_of_offset (a := .write (s.params.base + off) 4 v) rfl rfl h h4
  simp [writeAt, hostTurn, hp]

/-- R38: the offsets from 0x48 on are reserved. -/
theorem regAt_reserved {off : Nat} (h : 0x48 ≤ off) : regAt off = .reserved := by
  unfold regAt
  split
  case h_19 => rfl
  all_goals omega

theorem readReg_of_ne_outData (s : State) {r : Reg} (h : r ≠ .outData) :
    s.readReg r = s.recordRead (s.readValue r) := by
  cases r with
  | outData => exact absurd rfl h
  | _ => rfl

/-- R132, R70: a read of any register but OUT_DATA returns its value and changes nothing in the block. -/
theorem readAt_returns (s : State) {off : Nat} {v : Word} (h : off < 256) (h4 : off % 4 = 0)
    (hr : regAt off ≠ .outData) (hv : s.readValue (regAt off) = v) :
    readAt s off = .next { s with reads := s.reads ++ [v] } := by
  rw [readAt_eq s h h4, readReg_of_ne_outData s hr, hv]
  rfl

/-! ### The words a read returns -/

theorem ctrlWord_eq_ofNat (strict inEof : Bool) :
    ctrlWord strict inEof = BitVec.ofNat 32 (strict.toNat + 4 * inEof.toNat) := by
  cases strict <;> cases inEof <;> decide

/-- The five flags of STATUS as a number (R25). -/
theorem statusFlags_toNat (busy done err atEnd ovr : Bool) :
    (flagBit busy 0 ||| flagBit done 1 ||| flagBit err 2 ||| flagBit atEnd 3 ||| flagBit ovr 4).toNat =
      busy.toNat + 2 * done.toNat + 4 * err.toNat + 8 * atEnd.toNat + 16 * ovr.toNat := by
  revert busy done err atEnd ovr
  decide

/-- STATUS as a number (R25): the flags fill bits 4:0 and ERR_CODE bits 15:8, so the fields do not overlap. -/
theorem Status.word_eq_ofNat (f : Status) :
    f.word = BitVec.ofNat 32 (f.busy.toNat + 2 * f.done.toNat + 4 * f.err.toNat + 8 * f.atEnd.toNat +
      16 * f.ovr.toNat + 256 * f.errCode.toNat) := by
  have hflags := statusFlags_toNat f.busy f.done f.err f.atEnd f.ovr
  have hbound : f.busy.toNat + 2 * f.done.toNat + 4 * f.err.toNat + 8 * f.atEnd.toNat + 16 * f.ovr.toNat < 2 ^ 8 := by
    have := Bool.toNat_le f.busy
    have := Bool.toNat_le f.done
    have := Bool.toNat_le f.err
    have := Bool.toNat_le f.atEnd
    have := Bool.toNat_le f.ovr
    omega
  have hcode : (f.errCode.setWidth 32 <<< 8).toNat = f.errCode.toNat <<< 8 := by
    have := f.errCode.isLt
    rw [BitVec.toNat_shiftLeft, BitVec.toNat_setWidth, Nat.shiftLeft_eq, Nat.shiftLeft_eq]
    omega
  apply BitVec.eq_of_toNat_eq
  rw [Status.word, BitVec.toNat_or, hflags, hcode, Nat.or_comm, ← Nat.shiftLeft_add_eq_or_of_lt hbound,
    Nat.shiftLeft_eq, BitVec.toNat_ofNat]
  have := f.errCode.isLt
  omega

/-- Settles O15: each offset names its register, and a read of it returns `readValue`. -/
theorem registerReadsReturnTheMapsValues : Obligations.RegisterReadsReturnTheMapsValues := by
  intro s
  have reading : ∀ {off : Nat} {v : Word}, off < 256 ∧ off % 4 = 0 ∧ regAt off ≠ .outData →
      s.readValue (regAt off) = v → readAt s off = .next { s with reads := s.reads ++ [v] } :=
    fun ⟨h, h4, hr⟩ hv => readAt_returns s h h4 hr hv
  refine ⟨reading (by decide) rfl, reading (by decide) (ctrlWord_eq_ofNat _ _), reading (by decide) rfl,
    reading (by decide) s.status.word_eq_ofNat, reading (by decide) (BitVec.ofNat_toNat _ _).symm,
    reading (by decide) (BitVec.ofNat_toNat _ _).symm, reading (by decide) rfl, reading (by decide) rfl,
    reading (by decide) rfl, reading (by decide) rfl, reading (by decide) rfl, reading (by decide) rfl,
    reading (by decide) rfl, reading (by decide) rfl, reading (by decide) rfl, reading (by decide) rfl,
    reading (by decide) rfl, fun k hlow hhigh => ?_⟩
  have hk : regAt (4 * k) = .reserved := regAt_reserved hlow
  exact reading ⟨by omega, by omega, by rw [hk]; decide⟩ (by rw [hk]; rfl)

/-! ### Writes -/

theorem writeCmd_of_ne_idle {s : State} (h : s.eng ≠ .idle) (v : Word) : s.writeCmd v = s.overrun := by
  unfold State.writeCmd
  split
  · contradiction
  all_goals rfl

/-- Settles O8. -/
theorem cmdWriteElsewhereIsDroppedWithOvr : Obligations.CmdWriteElsewhereIsDroppedWithOvr := by
  intro s v h
  calc writeAt s 0x08 v = .next (s.writeCmd v) := writeAt_eq s (by decide) (by decide) v
    _ = .next s.overrun := by rw [writeCmd_of_ne_idle h]

theorem unlessBusy_of_busy {s : State} (h : s.eng.busy = true) (t : State) : s.unlessBusy t = s := by
  simp [State.unlessBusy, h]

theorem unlessBusy_of_not_busy {s : State} (h : s.eng.busy = false) (t : State) : s.unlessBusy t = t := by
  simp [State.unlessBusy, h]

/-- The registers that ignore every write (R21, R38). -/
def ignoresWrites : Reg → Bool
  | .id | .status | .runCount | .labelCount | .outData | .inLevel | .outLevel | .inDepth | .outDepth
  | .runBufDepth | .reserved => true
  | _ => false

theorem writeReg_of_ignoresWrites (s : State) (v : Word) {r : Reg} (h : ignoresWrites r = true) :
    s.writeReg r v = s := by
  cases r with
  | ctrl | cmd | valueBits | lengthBits | byteLength | count | blockCount | inData => cases h
  | _ => rfl

/-- The registers that a write changes only while the engine is not BUSY (R39), CTRL apart. -/
def isOperand : Reg → Bool
  | .valueBits | .lengthBits | .byteLength | .count | .blockCount => true
  | _ => false

theorem writeReg_operand_of_busy {s : State} (hb : s.eng.busy = true) (v : Word) {r : Reg}
    (h : isOperand r = true) : s.writeReg r v = s := by
  cases r with
  | valueBits | lengthBits | byteLength | count | blockCount => exact unlessBusy_of_busy hb _
  | _ => cases h

/-- Settles O18. -/
theorem operandWritesTakeEffectUnlessBusy : Obligations.OperandWritesTakeEffectUnlessBusy := by
  refine ⟨fun s v hb off hoff => ?_, fun s v hb => ?_, fun s v => ⟨fun off hoff => ?_, fun k hlow hhigh => ?_⟩⟩
  · have hmap : ∀ o ∈ [0x10, 0x14, 0x18, 0x1C, 0x28], o < 256 ∧ o % 4 = 0 ∧ isOperand (regAt o) = true := by decide
    obtain ⟨h, h4, hr⟩ := hmap off hoff
    rw [writeAt_eq s h h4, writeReg_operand_of_busy hb v hr]
  · have written : ∀ {off : Nat} {t : State}, off < 256 ∧ off % 4 = 0 → s.writeReg (regAt off) v = s.unlessBusy t →
        writeAt s off v = .next t := by
      intro off t ⟨h, h4⟩ hw
      rw [writeAt_eq s h h4, hw, unlessBusy_of_not_busy hb]
    exact ⟨written (by decide) rfl, written (by decide) rfl, written (by decide) rfl, written (by decide) rfl,
      written (by decide) rfl⟩
  · have hmap : ∀ o ∈ [0x00, 0x0C, 0x20, 0x24, 0x30, 0x34, 0x38, 0x3C, 0x40, 0x44],
        o < 256 ∧ o % 4 = 0 ∧ ignoresWrites (regAt o) = true := by decide
    obtain ⟨h, h4, hr⟩ := hmap off hoff
    rw [writeAt_eq s h h4, writeReg_of_ignoresWrites s v hr]
  · rw [writeAt_eq s (by omega) (by omega), regAt_reserved hlow, writeReg_of_ignoresWrites s v rfl]

/-! ### CTRL -/

theorem writeCtrl_without_abort {s : State} {v : Word} (h : v.getLsbD 1 = false) :
    s.writeCtrl v = s.writeCtrlFields v := by
  rw [State.writeCtrl, h]
  rfl

/-- R39: while BUSY only IN_EOF's set bit acts. -/
theorem writeCtrlFields_of_busy {s : State} (hb : s.eng.busy = true) (v : Word) :
    s.writeCtrlFields v = { s with inEof := s.inEof || v.getLsbD 2 } := by
  simp [State.writeCtrlFields, hb, Bool.or_comm]

/-- R23: while not BUSY, STRICT is written and IN_EOF is set or cleared, where the write does not do both. -/
theorem writeCtrlFields_of_not_busy {s : State} (hb : s.eng.busy = false) {v : Word}
    (hone : (v.getLsbD 2 && v.getLsbD 3) = false) :
    s.writeCtrlFields v =
      { s with
        strict := v.getLsbD 0
        inEof := if v.getLsbD 2 then true else if v.getLsbD 3 then false else s.inEof } := by
  cases hset : v.getLsbD 2 <;> cases hclr : v.getLsbD 3 <;> simp_all [State.writeCtrlFields]

/-- Log 4: a write that both sets and clears IN_EOF leaves the flag at a free value. -/
theorem writeCtrlFields_set_and_clear {s : State} (hb : s.eng.busy = false) {v : Word} (hset : v.getLsbD 2 = true)
    (hclr : v.getLsbD 3 = true) :
    s.writeCtrlFields v =
      { s with
        strict := v.getLsbD 0, inEof := Config.eofSetAndCleared s.freeCount, freeCount := s.freeCount + 1 } := by
  simp [State.writeCtrlFields, hb, hset, hclr]

/-- Settles O19. -/
theorem ctrlWriteWithoutAbort : Obligations.CtrlWriteWithoutAbort := by
  intro s v hv
  have hw : writeAt s 0x04 v = .next (s.writeCtrlFields v) := by
    rw [← writeCtrl_without_abort hv]
    exact writeAt_eq s (by decide) (by decide) v
  rw [hw]
  refine ⟨fun hb => ?_, fun hb hone => ?_, fun hb hset hclr => ?_⟩
  · rw [writeCtrlFields_of_busy hb]
  · rw [writeCtrlFields_of_not_busy hb hone]
  · exact ⟨_, _, congrArg Host.Outcome.next (writeCtrlFields_set_and_clear hb hset hclr)⟩

end Sys2Proof.Machine

/-! ## STATUS and the engine state (R25, R45) -/

namespace Sys2Proof.Machine

open Sys2Proof

theorem ErrorCode.code_ne_zero (e : ErrorCode) : e.code ≠ 0#8 := by cases e <;> decide

theorem busy_of_eng_input {s : State} (h : s.eng = .busyInput) : s.eng.busy = true := by rw [h]; rfl

theorem busy_of_eng_output {s : State} (h : s.eng = .busyOutput) : s.eng.busy = true := by rw [h]; rfl

/-! ### The shared operations keep the agreement -/

/-- The agreement looks at the engine state only through BUSY and ERROR, and at STATUS. -/
theorem StatusAgrees.congr {s t : State} (h : StatusAgrees s) (hs : t.status = s.status)
    (hb : t.eng.busy = s.eng.busy) (he : (t.eng == .error) = (s.eng == .error)) : StatusAgrees t := by
  unfold StatusAgrees
  rw [hs, hb, he]
  exact h

/-- R25: while the engine is BUSY, DONE, ERR, END and the error code are 0. -/
theorem StatusAgrees.flags_of_busy {s : State} (h : StatusAgrees s) (hb : s.eng.busy = true) :
    s.status.done = false ∧ s.status.err = false ∧ s.status.atEnd = false ∧ s.status.errCode = 0 := by
  obtain ⟨hbusy, -, hrun, -, -, hcode⟩ := h
  obtain ⟨hdone, herr, hend⟩ := hrun (hbusy.trans hb)
  exact ⟨hdone, herr, hend, hcode herr⟩

theorem StatusAgrees.raise {s : State} (h : StatusAgrees s) (hb : s.eng.busy = true) (e : ErrorCode) :
    StatusAgrees (s.raise e) := by
  obtain ⟨hdone, -, hend, -⟩ := h.flags_of_busy hb
  simp [StatusAgrees, Engine.busy, hdone, hend, e.code_ne_zero]

theorem StatusAgrees.complete {s : State} (h : StatusAgrees s) (hb : s.eng.busy = true) (u : Updates) :
    StatusAgrees (s.complete u) := by
  obtain ⟨-, herr, -, hcode⟩ := h.flags_of_busy hb
  simp [StatusAgrees, Engine.busy, herr, hcode]

theorem StatusAgrees.completeEnd {s : State} (h : StatusAgrees s) (hb : s.eng.busy = true) :
    StatusAgrees s.completeEnd := by
  obtain ⟨-, herr, -, hcode⟩ := h.flags_of_busy hb
  simp [StatusAgrees, Engine.busy, herr, hcode]

theorem StatusAgrees.accept {s : State} (h : StatusAgrees s) (hi : s.eng = .idle) (v : Word) :
    StatusAgrees (s.accept v) := by
  obtain ⟨-, herr, -, -, -, hcode⟩ := h
  have herr : s.status.err = false := by rw [herr, hi]; rfl
  simp [StatusAgrees, Engine.busy, herr, hcode herr]

theorem StatusAgrees.overrun {s : State} (h : StatusAgrees s) : StatusAgrees s.overrun := by
  simpa only [StatusAgrees, State.overrun_status, State.overrun_eng, Status.overrun_busy, Status.overrun_done,
    Status.overrun_err, Status.overrun_atEnd, Status.overrun_errCode] using h

theorem statusAgrees_of_zero {s : State} (hs : s.status = Status.zero) (he : s.eng = .idle) : StatusAgrees s := by
  simp [StatusAgrees, Engine.busy, hs, he, Status.zero]

/-! ### The engine's step -/

theorem StatusAgrees.inputStep {s t : State} (h : StatusAgrees s) (he : s.eng = .busyInput) (hst : InputStep s t) :
    StatusAgrees t := by
  have hb := busy_of_eng_input he
  cases hst with
  | wait ht => exact ht ▸ h
  | raise e ht => exact ht ▸ h.raise hb e
  | move p ht => exact ht ▸ h.congr rfl rfl rfl
  | take b rest p acc n hq ht => exact ht ▸ h.congr rfl rfl rfl
  | leave p ht =>
    subst ht
    exact h.congr rfl hb.symm (by rw [he]; rfl)
  | atEnd hq heof ht => exact ht ▸ h.completeEnd hb

theorem StatusAgrees.writeStep {s : State} (h : StatusAgrees s) (he : s.eng = .busyOutput) (o : Output) :
    StatusAgrees (s.writeStep o) := by
  rcases writeStep_shape s o with ⟨acc, n, p, ht⟩ | ⟨b, acc, n, p, -, ht⟩ | ht | ht
  · exact ht ▸ h.congr rfl rfl rfl
  · exact ht ▸ h.congr rfl rfl rfl
  · rwa [ht]
  · exact ht ▸ h.complete (busy_of_eng_output he) o.upd

theorem StatusAgrees.exec {s t : State} {i : Instr} (h : StatusAgrees s) (hx : exec i s = .next t) :
    StatusAgrees t := by
  rcases exec_cases hx with ⟨-, ht⟩ | ⟨he, hst⟩ | ⟨he, o, -, ht⟩
  · exact ht ▸ h
  · exact h.inputStep he hst
  · exact ht ▸ h.writeStep he o

theorem StatusAgrees.engineTurn {s t : State} (h : StatusAgrees s) (hx : engineTurn s = .next t) :
    StatusAgrees t := by
  rcases engineTurn_cases s with ⟨-, hs⟩ | ⟨hb, r, -, hs⟩ | ⟨-, i, -, hs⟩ <;> rw [hs] at hx
  · cases hx; exact h
  · cases hx; exact h.raise hb _
  · exact h.exec hx

/-! ### The host's turn -/

/-- What a host access can do to the block, as the invariants see it: leave everything they speak of alone, drop the
access with OVR, push a byte or pop one, accept a command, or abort. -/
inductive HostEffect (s t : State) : Prop
  | quiet (strict inEof : Bool) (vb lb : Byte) (bl count blockCount : Word) (reads : List Word) (free : Nat)
      (h : t =
        { s with
          strict := strict
          inEof := inEof
          valueBits := vb
          lengthBits := lb
          byteLength := bl
          count := count
          blockCount := blockCount
          reads := reads
          freeCount := free })
  | overrun (h : t = s.overrun)
  | push (b : Byte) (hq : s.inq.length ≠ s.params.inDepth) (h : t = s.setIn (s.inq ++ [b]))
  | pop (v : Word) (h : t = (s.recordRead v).popOut)
  | accept (v : Word) (hi : s.eng = .idle) (h : t = s.accept v)
  | abort (h : t = s.abort)

theorem HostEffect.refl (s : State) : HostEffect s s := .quiet _ _ _ _ _ _ _ _ _ rfl

theorem HostEffect.ofRead (s : State) (r : Reg) : HostEffect s (s.readReg r) := by
  cases r with
  | outData => exact .pop _ rfl
  | _ => exact .quiet _ _ _ _ _ _ _ _ _ rfl

theorem HostEffect.ofUnlessBusy {s t : State} (h : HostEffect s t) : HostEffect s (s.unlessBusy t) := by
  unfold State.unlessBusy
  split
  · exact .refl s
  · exact h

theorem HostEffect.ofWriteCtrl (s : State) (v : Word) : HostEffect s (s.writeCtrl v) := by
  unfold State.writeCtrl
  split
  · exact .abort rfl
  · exact .quiet _ _ _ _ _ _ _ _ _ rfl

theorem HostEffect.ofWriteCmd (s : State) (v : Word) : HostEffect s (s.writeCmd v) := by
  by_cases hi : s.eng = .idle
  · exact .accept v hi (by simp [State.writeCmd, hi])
  · exact .overrun (writeCmd_of_ne_idle hi v)

theorem HostEffect.ofWriteInData (s : State) (v : Word) : HostEffect s (s.writeInData v) := by
  unfold State.writeInData
  split
  · exact .refl s
  · split
    next => exact .overrun rfl
    next h => exact .push _ (fun hq => h (.inr hq)) rfl

theorem HostEffect.ofWrite (s : State) (r : Reg) (v : Word) : HostEffect s (s.writeReg r v) := by
  cases r with
  | ctrl => exact .ofWriteCtrl s v
  | cmd => exact .ofWriteCmd s v
  | inData => exact .ofWriteInData s v
  | valueBits | lengthBits | byteLength | count | blockCount =>
    exact .ofUnlessBusy (.quiet _ _ _ _ _ _ _ _ _ rfl)
  | _ => exact .refl s

theorem HostEffect.ofHostTurn {s t : State} {a : Access} (h : hostTurn s a = .next t) : HostEffect s t := by
  rcases hostTurn_cases s a with ⟨why, -, hs⟩ | ⟨addr, n, -, -, hs⟩ | ⟨addr, n, v, -, -, hs⟩ <;> rw [hs] at h <;>
    cases h
  · exact .ofRead s _
  · exact .ofWrite s _ v

theorem StatusAgrees.hostEffect {s t : State} (h : StatusAgrees s) (hx : HostEffect s t) : StatusAgrees t := by
  cases hx with
  | quiet strict inEof vb lb bl count blockCount reads free ht => exact ht ▸ h.congr rfl rfl rfl
  | overrun ht => exact ht ▸ h.overrun
  | push b hq ht => exact ht ▸ h.congr rfl rfl rfl
  | pop v ht => exact ht ▸ h.congr rfl rfl rfl
  | accept v hi ht => exact ht ▸ h.accept hi v
  | abort ht => exact ht ▸ statusAgrees_of_zero rfl rfl

/-! ### The step -/

/-- A property that does not look at the list of turns is kept by every step if the engine's turn, every host access and
the reset event keep it. -/
theorem step_keeps {P : State → Prop} (hturns : ∀ s ts, P s → P (s.setTurns ts))
    (hengine : ∀ s t, P s → engineTurn s = .next t → P t) (hhost : ∀ s t, P s → HostEffect s t → P t)
    (hreset : ∀ s, P s → P s.resetEvent) {s t : State} (h : P s) (hx : step s = .next t) : P t := by
  rcases step_cases s with ⟨-, hs⟩ | ⟨ts, -, hs⟩ | ⟨a, ts, -, hs⟩ | ⟨ts, -, hs⟩ <;> rw [hs] at hx
  · exact hengine _ _ h hx
  · exact hengine _ _ (hturns s ts h) hx
  · exact hhost _ _ (hturns s ts h) (.ofHostTurn hx)
  · cases hx
    exact hreset _ (hturns s ts h)

/-- Settles O51. -/
theorem stepKeepsStatusInvariants : Obligations.StepKeepsStatusInvariants := by
  intro s t h hx
  exact step_keeps (P := StatusAgrees) (fun _ _ h => h.congr rfl rfl rfl) (fun _ _ h hx => h.engineTurn hx)
    (fun _ _ h hx => h.hostEffect hx) (fun _ _ => statusAgrees_of_zero rfl rfl) h hx

end Sys2Proof.Machine

/-! ## Facts about runs, widths and the bit accumulator -/

namespace Sys2Proof.Machine

open Sys2Proof

/-! ### Widths (R170, R171, R175) -/

theorem widthsLegal_iff (vb lb : Nat) :
    widthsLegal vb lb = true ↔ (1 ≤ vb ∧ vb ≤ 16) ∧ 1 ≤ lb ∧ lb ≤ 16 := by
  simp [widthsLegal, and_assoc]

theorem lt_two_pow_bitsNeeded (x : Nat) : x < 2 ^ bitsNeeded x := by
  unfold bitsNeeded
  split
  · subst x; decide
  · exact Nat.lt_log2_self

theorem bitsNeeded_pos {x : Nat} (h : x ≠ 0) : 1 ≤ bitsNeeded x := by simp [bitsNeeded, h]

theorem bitsNeeded_le_of_lt {x k : Nat} (h : x < 2 ^ k) : bitsNeeded x ≤ k := by
  unfold bitsNeeded
  split
  · exact Nat.zero_le k
  next hx => exact Nat.succ_le_of_lt ((Nat.log2_lt hx).2 h)

theorem le_maxOf {l : List Nat} {x : Nat} (h : x ∈ l) : x ≤ maxOf l := by
  induction l with
  | nil => cases h
  | cons y ys ih =>
    rcases List.mem_cons.1 h with rfl | h
    · exact Nat.le_max_left _ _
    · exact (ih h).trans (Nat.le_max_right _ _)

theorem maxOf_lt {l : List Nat} {k : Nat} (hk : 0 < k) (h : ∀ x ∈ l, x < k) : maxOf l < k := by
  induction l with
  | nil => exact hk
  | cons y ys ih =>
    obtain ⟨hy, hys⟩ := List.forall_mem_cons.1 h
    exact Nat.max_lt.2 ⟨hy, ih hys⟩

/-- R171, R173: every run fits the widths of its list. -/
theorem runFits_widths {runs : List Run} {r : Run} (h : r ∈ runs) : runFits (widths runs).1 (widths runs).2 r := by
  cases runs with
  | nil => cases h
  | cons q qs =>
    have hv : r.value.toNat ≤ maxOf ((q :: qs).map fun q => q.value.toNat) :=
      le_maxOf (List.mem_map_of_mem (f := fun q : Run => q.value.toNat) h)
    have hl : r.length.toNat ≤ maxOf ((q :: qs).map fun q => q.length.toNat) :=
      le_maxOf (List.mem_map_of_mem (f := fun q : Run => q.length.toNat) h)
    refine ⟨?_, hl.trans_lt (lt_two_pow_bitsNeeded _)⟩
    calc r.value.toNat
      _ < 2 ^ bitsNeeded (maxOf ((q :: qs).map fun q => q.value.toNat)) := hv.trans_lt (lt_two_pow_bitsNeeded _)
      _ ≤ 2 ^ (widths (q :: qs)).1 := Nat.pow_le_pow_right (by decide) (Nat.le_max_right _ _)

/-- R171, R175: the widths of runs of nonzero length are legal. -/
theorem widthsLegal_widths {runs : List Run} (h : ∀ r ∈ runs, r.length ≠ 0) :
    widthsLegal (widths runs).1 (widths runs).2 = true := by
  cases runs with
  | nil => rfl
  | cons q qs =>
    have hv : maxOf ((q :: qs).map fun q => q.value.toNat) < 2 ^ 16 :=
      maxOf_lt (by decide) (List.forall_mem_map.2 fun r _ => r.value.isLt)
    have hl : maxOf ((q :: qs).map fun q => q.length.toNat) < 2 ^ 16 :=
      maxOf_lt (by decide) (List.forall_mem_map.2 fun r _ => r.length.isLt)
    have hq : q.length.toNat ≠ 0 := fun h0 => h q List.mem_cons_self (BitVec.eq_of_toNat_eq h0)
    have hpos : maxOf ((q :: qs).map fun q => q.length.toNat) ≠ 0 := by
      have hmem : q ∈ q :: qs := List.mem_cons_self
      have := le_maxOf (List.mem_map_of_mem (f := fun r : Run => r.length.toNat) hmem)
      omega
    exact (widthsLegal_iff _ _).2 ⟨⟨Nat.le_max_left _ _, Nat.max_le.2 ⟨by decide, bitsNeeded_le_of_lt hv⟩⟩,
      bitsNeeded_pos hpos, bitsNeeded_le_of_lt hl⟩

/-! ### Runs read from IN (R150, R153, R154) -/

theorem rleScan_length_pos {cur : Half} {len : Nat} {xs : List Half} (h : 1 ≤ len) :
    ∀ r ∈ rleScan cur len xs, 1 ≤ r.2 := by
  induction xs generalizing cur len with
  | nil => simpa [rleScan] using h
  | cons x xs ih =>
    unfold rleScan
    split
    · exact ih (by omega)
    · exact List.forall_mem_cons.2 ⟨h, ih (Nat.le_refl 1)⟩

theorem rleEncode_length_pos (xs : List Half) : ∀ r ∈ rleEncode xs, 1 ≤ r.2 := by
  cases xs with
  | nil => intro r h; cases h
  | cons x xs => exact rleScan_length_pos (Nat.le_refl 1)

theorem toRun_length_ne_zero {r : Half × Nat} (h1 : 1 ≤ r.2) (h2 : r.2 ≤ 65535) : (toRun r).length ≠ 0 := by
  intro h
  have h0 : r.2 % 2 ^ 16 = 0 := by simpa [toRun] using congrArg BitVec.toNat h
  omega

/-- R153: the runs fit the run buffer, and none has length 0. -/
theorem runsFromLabels_ok {depth : Nat} {bs : List Byte} {runs : List Run} (h : runsFromLabels depth bs = .ok runs) :
    runs.length ≤ depth ∧ ∀ r ∈ runs, r.length ≠ 0 := by
  simp only [runsFromLabels] at h
  split at h
  · cases h
  next hlong =>
    split at h
    · cases h
    next hdepth =>
      cases h
      refine ⟨by simpa using hdepth, List.forall_mem_map.2 fun r hr => ?_⟩
      refine toRun_length_ne_zero (rleEncode_length_pos _ r hr) (Nat.le_of_not_lt fun hr' => hlong ?_)
      exact List.any_eq_true.2 ⟨r, hr, decide_eq_true hr'⟩

theorem recordsOf_length_le (bs : List Byte) : 4 * (recordsOf bs).length ≤ bs.length := by
  induction bs using recordsOf.induct with
  | case1 a b c d rest ih => simp only [recordsOf, List.length_cons]; omega
  | case2 bs h => simp [recordsOf]

theorem runFits_of_not_wide {vb lb : Nat} {runs : List Run} (h : ¬ hasWideField vb lb runs = true) :
    ∀ r ∈ runs, runFits vb lb r := by
  intro r hr
  simpa [runFits] using fun hw => h (List.any_eq_true.2 ⟨r, hr, hw⟩)

/-- R231: what the content checks of a ben32 block leave. -/
theorem ben32Check_none {strict : Bool} {depth : Nat} {runs : List Run} (h : ben32Check strict depth runs = none) :
    runs.length ≤ depth ∧ ∀ r ∈ runs, r.length ≠ 0 := by
  unfold ben32Check at h
  split at h
  · cases h
  next hzero =>
    split at h
    · cases h
    · split at h
      · cases h
      next hdepth =>
        refine ⟨Nat.le_of_not_lt hdepth, fun r hr h0 => hzero (List.any_eq_true.2 ⟨r, hr, ?_⟩)⟩
        rw [h0]
        rfl

theorem checkCount_none {l : Latch} {depth : Nat} (h : checkCount l depth = none) : l.count.toNat ≤ depth := by
  unfold checkCount at h
  split at h
  · cases h
  next hd => exact Nat.le_of_not_lt hd

theorem checkPackOperands_none {l : Latch} {depth : Nat} (h : checkPackOperands l depth = none) :
    widthsLegal l.vb.toNat l.lb.toNat = true ∧ l.count.toNat ≤ depth := by
  unfold checkPackOperands at h
  split at h
  · cases h
  next hw => exact ⟨by simpa using hw, checkCount_none h⟩

/-! ### The bit accumulator (R44, R174, R179) -/

/-- Dropping the oldest bits leaves none above the rest. -/
theorem accDrop_toNat_lt (acc : BitVec 23) (n w : Nat) : (accDrop acc n w).toNat < 2 ^ (n - w) := by
  have hpos : 0 < 2 ^ (n - w) := Nat.two_pow_pos _
  calc (accDrop acc n w).toNat
    _ ≤ (2 ^ (n - w) - 1) % 2 ^ 23 := by
      rw [accDrop, lowMask, BitVec.toNat_and, BitVec.toNat_ofNat]
      exact Nat.and_le_right
    _ ≤ 2 ^ (n - w) - 1 := Nat.mod_le _ _
    _ < 2 ^ (n - w) := by omega

/-- Shifting in a field of `w` bits leaves none above the valid ones. -/
theorem accShiftIn_toNat_lt {k n w : Nat} {acc : BitVec 23} {x : BitVec k} (ha : acc.toNat < 2 ^ n)
    (hx : x.toNat < 2 ^ w) : ((acc <<< w) ||| x.setWidth 23).toNat < 2 ^ (n + w) := by
  have hshift : (acc <<< w).toNat < 2 ^ (n + w) := by
    rw [BitVec.toNat_shiftLeft, Nat.shiftLeft_eq, Nat.pow_add]
    exact (Nat.mod_le _ _).trans_lt (Nat.mul_lt_mul_of_pos_right ha (Nat.two_pow_pos w))
  have hfield : (x.setWidth 23).toNat < 2 ^ (n + w) := by
    rw [BitVec.toNat_setWidth]
    exact ((Nat.mod_le _ _).trans_lt hx).trans_le (Nat.pow_le_pow_right (by decide) (Nat.le_add_left w n))
  rw [BitVec.toNat_or]
  exact Nat.or_lt_two_pow hshift hfield

theorem AccBounded.of_empty {s : State} (ha : s.acc = 0) (hn : s.accN = 0) : AccBounded s := by
  simp [AccBounded, ha, hn]

theorem AccBounded.drop {s : State} (h : AccBounded s) (w : Nat) :
    AccBounded (s.setAcc (accDrop s.acc s.accN w) (s.accN - w)) :=
  ⟨(Nat.sub_le _ _).trans h.1, accDrop_toNat_lt _ _ _⟩

theorem AccBounded.shiftIn {k w : Nat} {s : State} {x : BitVec k} (h : AccBounded s) (hn : s.accN + w ≤ 23)
    (hx : x.toNat < 2 ^ w) : AccBounded (s.setAcc ((s.acc <<< w) ||| x.setWidth 23) (s.accN + w)) :=
  ⟨hn, accShiftIn_toNat_lt h.2 hx⟩

/-! ### The unpacker (R176, R179) -/

section
variable {s : State} {p : Payload}

theorem payloadFits_of_illegal (h : widthsLegal p.vb.toNat p.lb.toNat = false) :
    PayloadFits s p ↔ s.accN = 0 := by
  simp [PayloadFits, h]

theorem payloadFits_of_stopped (h : p.stopped = true) : PayloadFits s p ↔ s.accN = 0 := by simp [PayloadFits, h]

theorem payloadFits_of_none (hw : widthsLegal p.vb.toNat p.lb.toNat = true) (hs : p.stopped = false)
    (hh : p.held = none) : PayloadFits s p ↔ s.accN < p.vb.toNat := by
  simp [PayloadFits, hw, hs, hh]

theorem payloadFits_of_some {v : Half} (hw : widthsLegal p.vb.toNat p.lb.toNat = true) (hs : p.stopped = false)
    (hh : p.held = some v) : PayloadFits s p ↔ s.accN < p.lb.toNat := by
  simp [PayloadFits, hw, hs, hh]

/-- The unpacker holds fewer bits than the widest field. -/
theorem PayloadFits.accN_lt (h : PayloadFits s p) : s.accN < 16 := by
  cases hw : widthsLegal p.vb.toNat p.lb.toNat with
  | false => have := (payloadFits_of_illegal hw).1 h; omega
  | true =>
    obtain ⟨⟨-, hvb⟩, -, hlb⟩ := (widthsLegal_iff _ _).1 hw
    cases hs : p.stopped with
    | true => have := (payloadFits_of_stopped hs).1 h; omega
    | false =>
      cases hh : p.held with
      | none => have := (payloadFits_of_none hw hs hh).1 h; omega
      | some v => have := (payloadFits_of_some hw hs hh).1 h; omega

end

/-- Starting a payload with an empty accumulator (R179). -/
theorem payloadFits_begin {s : State} (vb lb : Byte) (bl : Word) (hn : s.accN = 0) :
    PayloadFits s (Payload.begin vb lb bl) := by
  cases hw : widthsLegal vb.toNat lb.toNat with
  | false => exact (payloadFits_of_illegal hw).2 hn
  | true =>
    obtain ⟨⟨hvb, -⟩, -⟩ := (widthsLegal_iff _ _).1 hw
    exact (payloadFits_of_none hw rfl rfl).2 (by rw [hn]; exact hvb)

/-- An accumulator and a payload position that fit each other, whatever the rest of the state is. -/
def UnpackerFits (r : Payload × BitVec 23 × Nat) : Prop :=
  ∀ s : State, AccBounded (s.setAcc r.2.1 r.2.2) ∧ PayloadFits (s.setAcc r.2.1 r.2.2) r.1

/-- Extraction with enough fuel goes on until fewer bits are held than the next field needs, or the stop rule fires. -/
theorem unpackerFits_extractFields {k n : Nat} {p : Payload} {acc : BitVec 23}
    (hw : widthsLegal p.vb.toNat p.lb.toNat = true) (hk : n ≤ k) (hn : n ≤ 23) (ha : acc.toNat < 2 ^ n)
    (hs : p.stopped = false) : UnpackerFits (extractFields k p acc n) := by
  obtain ⟨⟨hvb, -⟩, hlb, -⟩ := (widthsLegal_iff _ _).1 hw
  induction k generalizing p acc n with
  | zero =>
    refine fun s => ⟨⟨hn, ha⟩, ?_⟩
    cases hh : p.held with
    | none => exact (payloadFits_of_none hw hs hh).2 (show n < _ by omega)
    | some v => exact (payloadFits_of_some hw hs hh).2 (show n < _ by omega)
  | succ k ih =>
    unfold extractFields
    rw [if_neg (by simp [hs])]
    cases hh : p.held with
    | none =>
      by_cases hfield : p.vb.toNat ≤ n
      · simp only [hfield, if_true]
        exact ih hw (by omega) (by omega) (accDrop_toNat_lt _ _ _) hs hvb hlb
      · simp only [hfield, if_false]
        exact fun s => ⟨⟨hn, ha⟩, (payloadFits_of_none hw hs hh).2 (Nat.lt_of_not_le hfield)⟩
    | some v =>
      by_cases hfield : p.lb.toNat ≤ n
      · simp only [hfield, if_true]
        split
        · exact fun s => ⟨.of_empty rfl rfl, (payloadFits_of_stopped rfl).2 rfl⟩
        · exact ih hw (by omega) (by omega) (accDrop_toNat_lt _ _ _) hs hvb hlb
      · simp only [hfield, if_false]
        exact fun s => ⟨⟨hn, ha⟩, (payloadFits_of_some hw hs hh).2 (Nat.lt_of_not_le hfield)⟩

/-- R179: one payload byte keeps the unpacker's bounds. -/
theorem unpackerFits_takePayloadByte {s : State} {p : Payload} (ha : AccBounded s) (hp : PayloadFits s p) (b : Byte) :
    UnpackerFits (takePayloadByte b p s.acc s.accN) := by
  unfold takePayloadByte
  split
  next hw => exact fun u => ⟨ha, (payloadFits_of_illegal hw).2 ((payloadFits_of_illegal hw).1 hp)⟩
  next hw =>
    split
    next hs => exact fun u => ⟨ha, (payloadFits_of_stopped hs).2 ((payloadFits_of_stopped hs).1 hp)⟩
    next hs =>
      have hn := hp.accN_lt
      exact unpackerFits_extractFields (by simpa using hw) (Nat.le_refl _) (by omega)
        (accShiftIn_toNat_lt ha.2 b.isLt) (by simpa using hs)

end Sys2Proof.Machine

/-! ## The invariant: capacities, accumulator and position -/

namespace Sys2Proof.Machine

open Sys2Proof

/-- The part of the invariant that speaks of the FIFOs, the run buffer, the accumulator and the engine's position. -/
def EngineFits (s : State) : Prop := WithinCapacity s ∧ AccBounded s ∧ PosFits s

theorem inv_iff (s : State) : Inv s ↔ s.params.wellFormed = true ∧ StatusAgrees s ∧ EngineFits s := Iff.rfl

/-- What the form of the output asks of the runs (R173): in packed form the widths are legal and every run fits them. -/
def FormFits (f : OutForm) (runs : List Run) : Prop :=
  ∀ vb lb, f = .packed vb lb → widthsLegal vb lb = true ∧ ∀ r ∈ runs, runFits vb lb r

/-- What an input phase leaves for the output phase: runs that the run buffer holds, in a form that fits them. -/
def PlanFits (depth : Nat) (p : Plan) : Prop := p.runs.length ≤ depth ∧ FormFits p.form p.runs

/-! ### Positions -/

section
variable {i : Instr} {s : State}

theorem posFits_of_none (he : s.eng = .idle ∨ s.eng = .error) (hp : s.pos = .none) : PosFits s := by
  rcases he with he | he <;> simp [PosFits, he, hp]

theorem posFits_input_iff (he : s.eng = .busyInput) (hf : s.fetch = .ok i) : PosFits s ↔ InputFits i s := by
  simp [PosFits, he, hf]

theorem posFits_writing_iff {o : Output} (he : s.eng = .busyOutput) (hp : s.pos = .writing o) :
    PosFits s ↔ (∃ i, s.fetch = .ok i) ∧ OutputFits s o := by
  simp [PosFits, he, hp]

theorem inputFits_start_iff (h : s.pos = .start) : InputFits i s ↔ s.accN = 0 := by simp [InputFits, h]

theorem inputFits_bytes_iff {got : List Byte} (h : s.pos = .bytes got) :
    InputFits i s ↔
      readsCounted i = true ∧ got.length ≤ inputBytes i s.latch ∧ operandsPass i s = true ∧ s.accN = 0 := by
  simp [InputFits, h]

theorem inputFits_header_iff {got : List Byte} (h : s.pos = .header got) :
    InputFits i s ↔ readsBenBlock i = true ∧ got.length ≤ 6 ∧ s.accN = 0 := by
  simp [InputFits, h]

theorem inputFits_payload_iff {p : Payload} (h : s.pos = .payload p) :
    InputFits i s ↔ (readsBenBlock i = true ∨ i = .unpack) ∧ PayloadFits s p := by
  simp [InputFits, h]

theorem inputFits_words_iff {part : List Byte} {runs : List Run} (h : s.pos = .words part runs) :
    InputFits i s ↔ readsBen32 i = true ∧ part.length ≤ 4 ∧ s.accN = 0 := by
  simp [InputFits, h]

theorem outputFits_iff (o : Output) :
    OutputFits s o ↔ (∀ x ∈ o.items, itemFits x) ∧ o.next ≤ s.runBuf.length ∧ FormFits o.form s.runBuf := by
  unfold OutputFits FormFits
  cases o.form <;> simp

end

theorem formFits_of_not_packed {f : OutForm} {runs : List Run} (h : ∀ vb lb, f ≠ .packed vb lb) : FormFits f runs :=
  fun vb lb hf => absurd hf (h vb lb)

theorem formFits_packed {vb lb : Nat} {runs : List Run} (hw : widthsLegal vb lb = true)
    (hr : ∀ r ∈ runs, runFits vb lb r) : FormFits (.packed vb lb) runs := by
  rintro _ _ ⟨⟩
  exact ⟨hw, hr⟩

/-! ### What the ends of the phases leave -/

section
variable {s : State}

theorem engineFits_raise (hc : WithinCapacity s) (e : ErrorCode) : EngineFits (s.raise e) :=
  ⟨⟨Nat.zero_le _, hc.2.1, Nat.zero_le _⟩, .of_empty rfl rfl, posFits_of_none (.inr rfl) rfl⟩

theorem engineFits_completeEnd (hc : WithinCapacity s) (ha : AccBounded s) : EngineFits s.completeEnd :=
  ⟨hc, ha, posFits_of_none (.inl rfl) rfl⟩

theorem engineFits_complete (hc : WithinCapacity s) (ha : AccBounded s) (u : Updates) : EngineFits (s.complete u) :=
  ⟨hc, ha, posFits_of_none (.inl rfl) rfl⟩

/-- R126: the output phase begins with bytes only, the runs in the run buffer and the accumulator empty. -/
theorem engineFits_enterOutput {i : Instr} (hc : WithinCapacity s) (hf : s.fetch = .ok i) {p : Plan}
    (hp : PlanFits s.params.runBufDepth p) : EngineFits (s.enterOutput p) := by
  obtain ⟨hin, hout, -⟩ := hc
  obtain ⟨hdepth, hform⟩ := hp
  refine ⟨⟨hin, hout, hdepth⟩, .of_empty rfl rfl, ?_⟩
  refine (posFits_writing_iff rfl rfl).2 ⟨⟨i, hf⟩, (outputFits_iff _).2 ⟨?_, Nat.zero_le _, hform⟩⟩
  exact List.forall_mem_map.2 fun _ _ => trivial

end

/-- A header gives the position at the start of a payload (R202). -/
theorem headerPayload_some {h : List Byte} {p : Payload} (hp : headerPayload h = some p) :
    ∃ vb lb bl, p = Payload.begin vb lb bl := by
  unfold headerPayload at hp
  split at hp
  · exact ⟨_, _, _, (Option.some.inj hp).symm⟩
  · cases hp

/-! ### The input phase

`InInput i s`: the engine is in the input phase of the command `i`. Each part of an input step is shown to leave a state
that fits; what a command adds is what its own content checks leave (`PlanFits`). -/

/-- The engine is in BUSY.INPUT with the command `i`, and all but its position is known to fit. -/
structure InInput (i : Instr) (s : State) : Prop where
  eng : s.eng = .busyInput
  fetch : s.fetch = .ok i
  capacity : WithinCapacity s
  acc : AccBounded s

namespace InInput
variable {i : Instr} {s : State}

/-- A new position in the input phase. -/
theorem setPos (h : InInput i s) {p : Pos} (hp : InputFits i (s.setPos p)) : EngineFits (s.setPos p) :=
  ⟨h.capacity, h.acc, (posFits_input_iff (s := s.setPos p) h.eng h.fetch).2 hp⟩

theorem setAcc (h : InInput i s) {acc : BitVec 23} {n : Nat} (ha : AccBounded (s.setAcc acc n)) :
    InInput i (s.setAcc acc n) :=
  ⟨h.eng, h.fetch, h.capacity, ha⟩

theorem setIn (h : InInput i s) {b : Byte} {rest : List Byte} (hq : s.inq = b :: rest) : InInput i (s.setIn rest) := by
  obtain ⟨hin, hout, hbuf⟩ := h.capacity
  rw [hq, List.length_cons] at hin
  exact ⟨h.eng, h.fetch, ⟨(Nat.le_succ _).trans hin, hout, hbuf⟩, h.acc⟩

theorem engineFits (h : InInput i s) (hp : InputFits i s) : EngineFits s :=
  ⟨h.capacity, h.acc, (posFits_input_iff h.eng h.fetch).2 hp⟩

theorem raise (h : InInput i s) (e : ErrorCode) : EngineFits (s.raise e) := engineFits_raise h.capacity e

/-- `InRead()` (R124): what is left to show is what becomes of a byte. -/
theorem inRead (h : InInput i s) (hp : InputFits i s) {onByte : Byte → State → State} (e : ErrorCode)
    (hb : ∀ b rest, InInput i (s.setIn rest) → EngineFits (onByte b (s.setIn rest))) :
    EngineFits (s.inRead onByte fun u => u.raise e) := by
  rcases inRead_cases s onByte (fun u => u.raise e) with ⟨b, rest, hq, hs⟩ | ⟨-, -, hs⟩ | ⟨-, -, hs⟩ <;> rw [hs]
  · exact hb b rest (h.setIn hq)
  · exact h.raise e
  · exact h.engineFits hp

/-- `AtEnd()` (R124, R129). -/
theorem atEnd (h : InInput i s) (hp : InputFits i s) {p : Pos} (hp' : InputFits i (s.setPos p)) :
    EngineFits (s.atEnd (fun u => u.setPos p) fun u => u.completeEnd) := by
  rcases atEnd_cases s (fun u => u.setPos p) (fun u => u.completeEnd) with ⟨-, hs⟩ | ⟨-, -, hs⟩ | ⟨-, -, hs⟩ <;> rw [hs]
  · exact h.setPos hp'
  · exact engineFits_completeEnd h.capacity h.acc
  · exact h.engineFits hp

/-- The content checks' first error, or the output phase. -/
theorem conclude (h : InInput i s) {r : Except ErrorCode Plan}
    (hr : ∀ p, r = .ok p → PlanFits s.params.runBufDepth p) : EngineFits (s.conclude r) := by
  rcases conclude_cases s r with ⟨e, -, hs⟩ | ⟨p, hok, hs⟩ <;> rw [hs]
  · exact h.raise e
  · exact engineFits_enterOutput h.capacity h.fetch (hr p hok)

theorem emptyInput (h : InInput i s) {plan : Plan} {t : State} (hplan : PlanFits s.params.runBufDepth plan)
    (hx : emptyInput plan s = .next t) : EngineFits t := by
  obtain ⟨-, rfl⟩ := emptyInput_cases hx
  exact engineFits_enterOutput h.capacity h.fetch hplan

/-- A command with a fixed amount of input: its operand check makes `operandsPass` true, and what its content checks
accept fits. -/
theorem countedInput (h : InInput i s) (hp : InputFits i s) {operands : Option ErrorCode} {short : ErrorCode}
    {n : Nat} {content : List Byte → Except ErrorCode Plan} {t : State} (hi : readsCounted i = true)
    (hn : inputBytes i s.latch = n)
    (hops : operands = none → operandsPass i s = true)
    (hcontent : ∀ got p, got.length ≤ n → operandsPass i s = true → content got = .ok p →
      PlanFits s.params.runBufDepth p)
    (hx : countedInput operands n short content s = .next t) : EngineFits t := by
  subst hn
  rcases countedInput_cases hx with ⟨-, e, -, rfl⟩ | ⟨hpos, hnone, rfl⟩ | ⟨got, hpos, hlt, rfl⟩ | ⟨got, hpos, -, rfl⟩
  · exact h.raise e
  · have hn := (inputFits_start_iff hpos).1 hp
    exact h.setPos ((inputFits_bytes_iff rfl).2 ⟨hi, Nat.zero_le _, hops hnone, hn⟩)
  · obtain ⟨-, -, hpass, hn⟩ := (inputFits_bytes_iff hpos).1 hp
    refine h.inRead hp short fun b rest h' => h'.setPos ((inputFits_bytes_iff rfl).2 ⟨hi, ?_, hpass, hn⟩)
    rw [List.length_append]
    exact hlt
  · obtain ⟨-, hlen, hpass, -⟩ := (inputFits_bytes_iff hpos).1 hp
    exact h.conclude fun p hok => hcontent got p hlen hpass hok

/-- One payload byte taken into the unpacker (R179). -/
theorem payloadByte (h : InInput i s) (hi : readsBenBlock i = true ∨ i = .unpack) {p : Payload}
    (hp : PayloadFits s p) (b : Byte) : EngineFits (s.payloadByte p b) := by
  obtain ⟨hacc, hpay⟩ := unpackerFits_takePayloadByte h.acc hp b s
  exact (h.setAcc hacc).setPos ((inputFits_payload_iff rfl).2 ⟨hi, hpay⟩)

/-- Inside a payload: the run buffer's depth is checked before the command's own content checks. -/
theorem payloadStep (h : InInput i s) (hp : InputFits i s) {p : Payload} (hpos : s.pos = .payload p)
    {content : Payload → List Run → Except ErrorCode Plan}
    (hcontent : ∀ q runs plan, runs.length ≤ s.params.runBufDepth → content q runs = .ok plan →
      PlanFits s.params.runBufDepth plan) : EngineFits (payloadStep content s p) := by
  obtain ⟨hi, hfits⟩ := (inputFits_payload_iff hpos).1 hp
  rcases payloadStep_cases content s p with ⟨-, hs⟩ | ⟨-, ⟨e, -, hs⟩ | ⟨runs, -, -, hs⟩ | ⟨runs, -, hdepth, hs⟩⟩ <;>
    rw [hs]
  · exact h.inRead hp _ fun b rest h' => h'.payloadByte hi hfits b
  · exact h.raise e
  · exact h.raise _
  · exact h.conclude fun plan hok => hcontent p runs plan hdepth hok

theorem payloadInput (h : InInput i s) (hp : InputFits i s) (hi : i = .unpack) {t : State}
    {content : Payload → List Run → Except ErrorCode Plan}
    (hcontent : ∀ q runs plan, runs.length ≤ s.params.runBufDepth → content q runs = .ok plan →
      PlanFits s.params.runBufDepth plan) (hx : payloadInput content s = .next t) : EngineFits t := by
  rcases payloadInput_cases hx with ⟨-, -, rfl⟩ | ⟨hpos, -, rfl⟩ | ⟨p, hpos, rfl⟩
  · exact h.raise _
  · have hn := (inputFits_start_iff hpos).1 hp
    exact h.setPos ((inputFits_payload_iff rfl).2 ⟨.inr hi, payloadFits_begin _ _ _ hn⟩)
  · exact h.payloadStep hp hpos hcontent

theorem benBlockInput (h : InInput i s) (hp : InputFits i s) (hi : readsBenBlock i = true) {t : State}
    {content : Payload → List Run → Except ErrorCode Plan}
    (hcontent : ∀ q runs plan, runs.length ≤ s.params.runBufDepth → content q runs = .ok plan →
      PlanFits s.params.runBufDepth plan) (hx : benBlockInput content s = .next t) : EngineFits t := by
  rcases benBlockInput_cases hx with ⟨hpos, rfl⟩ | ⟨got, hpos, hlt, rfl⟩ | ⟨got, p, hpos, -, hhead, rfl⟩ |
    ⟨p, hpos, rfl⟩
  · have hn := (inputFits_start_iff hpos).1 hp
    exact h.atEnd hp ((inputFits_header_iff rfl).2 ⟨hi, Nat.zero_le _, hn⟩)
  · obtain ⟨-, -, hn⟩ := (inputFits_header_iff hpos).1 hp
    refine h.inRead hp _ fun b rest h' => h'.setPos ((inputFits_header_iff rfl).2 ⟨hi, ?_, hn⟩)
    rw [List.length_append]
    exact hlt
  · obtain ⟨-, -, hn⟩ := (inputFits_header_iff hpos).1 hp
    obtain ⟨vb, lb, bl, rfl⟩ := headerPayload_some hhead
    exact h.setPos ((inputFits_payload_iff rfl).2 ⟨.inl hi, payloadFits_begin _ _ _ hn⟩)
  · exact h.payloadStep hp hpos hcontent

theorem ben32Input (h : InInput i s) (hp : InputFits i s) (hi : readsBen32 i = true) {t : State}
    {content : List Run → Except ErrorCode Plan}
    (hcontent : ∀ runs plan, runs.length ≤ s.params.runBufDepth → (∀ r ∈ runs, r.length ≠ 0) →
      content runs = .ok plan → PlanFits s.params.runBufDepth plan)
    (hx : ben32Input content s = .next t) : EngineFits t := by
  rcases ben32Input_cases hx with ⟨hpos, rfl⟩ | ⟨part, runs, hpos, hlt, rfl⟩ | ⟨a, b, c, d, runs, hpos, -, rfl⟩ |
    ⟨a, b, c, d, runs, e, -, -, -, rfl⟩ | ⟨a, b, c, d, runs, -, -, hcheck, rfl⟩
  · have hn := (inputFits_start_iff hpos).1 hp
    exact h.atEnd hp ((inputFits_words_iff rfl).2 ⟨hi, Nat.zero_le _, hn⟩)
  · obtain ⟨-, -, hn⟩ := (inputFits_words_iff hpos).1 hp
    refine h.inRead hp _ fun b rest h' => h'.setPos ((inputFits_words_iff rfl).2 ⟨hi, ?_, hn⟩)
    rw [List.length_append]
    exact hlt
  · obtain ⟨-, -, hn⟩ := (inputFits_words_iff hpos).1 hp
    exact h.setPos ((inputFits_words_iff rfl).2 ⟨hi, Nat.zero_le _, hn⟩)
  · exact h.raise e
  · obtain ⟨hdepth, hlen⟩ := ben32Check_none hcheck
    exact h.conclude fun p hok => hcontent runs p hdepth hlen hok

end InInput

end Sys2Proof.Machine

/-! ## The invariant: every command, the output phase and the host -/

namespace Sys2Proof.Machine

open Sys2Proof

/-! ### What each command's content checks accept fits the output phase -/

section
variable {l : Latch} {depth : Nat} {bs : List Byte} {p : Plan}

theorem planFits_nothing (lead : List Byte) (upd : Updates) :
    PlanFits depth { runs := [], lead := lead, form := .nothing, upd := upd } :=
  ⟨Nat.zero_le _, formFits_of_not_packed (by simp)⟩

/-- A BEN block of runs with their own widths (R200). -/
theorem planFits_block {runs : List Run} (hdepth : runs.length ≤ depth) (hlen : ∀ r ∈ runs, r.length ≠ 0)
    (lead : List Byte) (upd : Updates) :
    PlanFits depth { runs := runs, lead := lead, form := .packed (widths runs).1 (widths runs).2, upd := upd } :=
  ⟨hdepth, formFits_packed (widthsLegal_widths hlen) fun _ => runFits_widths⟩

theorem planFits_chkMagicContent (h : chkMagicContent bs = .ok p) : PlanFits depth p := by
  unfold chkMagicContent at h
  split at h <;> cases h
  exact planFits_nothing _ _

theorem planFits_copyMagicContent (h : copyMagicContent bs = .ok p) : PlanFits depth p := by
  unfold copyMagicContent at h
  split at h <;> cases h
  exact planFits_nothing _ _

theorem planFits_rleEncContent (h : rleEncContent l depth bs = .ok p) : PlanFits depth p := by
  unfold rleEncContent at h
  split at h
  · cases h
  next hruns =>
    cases h
    exact ⟨(runsFromLabels_ok hruns).1, formFits_of_not_packed (by simp)⟩

theorem planFits_encBen32Content (h : encBen32Content l depth bs = .ok p) : PlanFits depth p := by
  unfold encBen32Content at h
  split at h
  · cases h
  next hruns =>
    cases h
    exact ⟨(runsFromLabels_ok hruns).1, formFits_of_not_packed (by simp)⟩

theorem planFits_encBlockContent (h : encBlockContent l depth bs = .ok p) : PlanFits depth p := by
  unfold encBlockContent at h
  split at h
  · cases h
  next hruns =>
    obtain ⟨hdepth, hlen⟩ := runsFromLabels_ok hruns
    dsimp only at h
    split at h <;> cases h
    exact planFits_block hdepth hlen _ _

/-- R154: `L.count` run records that the run buffer holds. -/
theorem recordsOf_fit (hb : bs.length ≤ l.recordInput) (hc : l.count.toNat ≤ depth) :
    (recordsOf bs).length ≤ depth := by
  have := recordsOf_length_le bs
  unfold Latch.recordInput at hb
  omega

theorem planFits_rleDecContent (hb : bs.length ≤ l.recordInput) (hc : l.count.toNat ≤ depth)
    (h : rleDecContent l bs = .ok p) : PlanFits depth p := by
  unfold rleDecContent at h
  dsimp only at h
  split at h
  · cases h
  · split at h <;> cases h
    exact ⟨recordsOf_fit hb hc, formFits_of_not_packed (by simp)⟩

theorem planFits_runsToBen32Content (hb : bs.length ≤ l.recordInput) (hc : l.count.toNat ≤ depth)
    (h : runsToBen32Content l bs = .ok p) : PlanFits depth p := by
  unfold runsToBen32Content at h
  dsimp only at h
  split at h <;> cases h
  exact ⟨recordsOf_fit hb hc, formFits_of_not_packed (by simp)⟩

theorem planFits_widthContent (h : widthContent l bs = .ok p) : PlanFits depth p := by
  unfold widthContent at h
  dsimp only at h
  split at h
  · cases h
  · split at h <;> cases h
    exact planFits_nothing _ _

theorem planFits_packContent (hb : bs.length ≤ l.recordInput) (hc : l.count.toNat ≤ depth)
    (hw : widthsLegal l.vb.toNat l.lb.toNat = true) (h : packContent l bs = .ok p) : PlanFits depth p := by
  unfold packContent at h
  dsimp only at h
  split at h
  · cases h
  · split at h
    · cases h
    next hwide =>
      split at h <;> cases h
      exact ⟨recordsOf_fit hb hc, formFits_packed hw (runFits_of_not_wide hwide)⟩

theorem planFits_unpackContent {q : Payload} {runs : List Run} (hd : runs.length ≤ depth)
    (h : unpackContent q runs = .ok p) : PlanFits depth p := by
  cases h
  exact ⟨hd, formFits_of_not_packed (by simp)⟩

theorem planFits_decBlockContent {q : Payload} {runs : List Run} (hd : runs.length ≤ depth)
    (h : decBlockContent q runs = .ok p) : PlanFits depth p := by
  unfold decBlockContent at h
  split at h <;> cases h
  exact ⟨hd, formFits_of_not_packed (by simp)⟩

theorem planFits_blockToBen32Content {q : Payload} {runs : List Run} (hd : runs.length ≤ depth)
    (h : blockToBen32Content q runs = .ok p) : PlanFits depth p := by
  cases h
  exact ⟨hd, formFits_of_not_packed (by simp)⟩

theorem planFits_ben32ToRunsContent {runs : List Run} (hd : runs.length ≤ depth)
    (h : ben32ToRunsContent runs = .ok p) : PlanFits depth p := by
  cases h
  exact ⟨hd, formFits_of_not_packed (by simp)⟩

theorem planFits_ben32ToBlockContent {runs : List Run} (hd : runs.length ≤ depth)
    (hlen : ∀ r ∈ runs, r.length ≠ 0) (h : ben32ToBlockContent runs = .ok p) : PlanFits depth p := by
  unfold ben32ToBlockContent at h
  dsimp only at h
  split at h <;> cases h
  exact planFits_block hd hlen _ _

end

/-! ### The operand checks (R274 tier 1) -/

theorem operandsPass_rleDec_iff (s : State) :
    operandsPass .rleDec s = true ↔ s.latch.count.toNat ≤ s.params.runBufDepth := by simp [operandsPass]

theorem operandsPass_runsToBen32_iff (s : State) :
    operandsPass .runsToBen32 s = true ↔ s.latch.count.toNat ≤ s.params.runBufDepth := by simp [operandsPass]

theorem operandsPass_pack_iff (s : State) :
    operandsPass .pack s = true ↔
      s.latch.count.toNat ≤ s.params.runBufDepth ∧ widthsLegal s.latch.vb.toNat s.latch.lb.toNat = true := by
  simp [operandsPass]

/-! ### The engine's step -/

theorem input_of_runCommand {input : State → Result} {s t : State} (he : s.eng = .busyInput)
    (h : runCommand input s = .next t) : input s = .next t := by
  simpa [runCommand, he] using h

/-- One step of the input phase of any command. -/
theorem InInput.exec {i : Instr} {s t : State} (h : InInput i s) (hp : InputFits i s) (hx : exec i s = .next t) :
    EngineFits t := by
  cases i with
  | nop | encMagic => exact h.emptyInput (planFits_nothing _ _) (input_of_runCommand h.eng hx)
  | chkMagic =>
    exact h.countedInput hp rfl rfl (fun _ => rfl) (fun _ _ _ _ => planFits_chkMagicContent)
      (input_of_runCommand h.eng hx)
  | copyMagic =>
    exact h.countedInput hp rfl rfl (fun _ => rfl) (fun _ _ _ _ => planFits_copyMagicContent)
      (input_of_runCommand h.eng hx)
  | rleEnc =>
    exact h.countedInput hp rfl rfl (fun _ => rfl) (fun _ _ _ _ => planFits_rleEncContent)
      (input_of_runCommand h.eng hx)
  | rleDec =>
    exact h.countedInput hp rfl rfl (fun hops => (operandsPass_rleDec_iff s).2 (checkCount_none hops))
      (fun _ _ hb hpass => planFits_rleDecContent hb ((operandsPass_rleDec_iff s).1 hpass))
      (input_of_runCommand h.eng hx)
  | width =>
    exact h.countedInput hp rfl rfl (fun _ => rfl) (fun _ _ _ _ => planFits_widthContent)
      (input_of_runCommand h.eng hx)
  | pack =>
    refine h.countedInput hp rfl rfl (fun hops => ?_) (fun _ _ hb hpass => ?_) (input_of_runCommand h.eng hx)
    · obtain ⟨hw, hc⟩ := checkPackOperands_none hops
      exact (operandsPass_pack_iff s).2 ⟨hc, hw⟩
    · obtain ⟨hc, hw⟩ := (operandsPass_pack_iff s).1 hpass
      exact planFits_packContent hb hc hw
  | unpack =>
    exact h.payloadInput hp rfl (fun _ _ _ => planFits_unpackContent) (input_of_runCommand h.eng hx)
  | encBlock =>
    exact h.countedInput hp rfl rfl (fun _ => rfl) (fun _ _ _ _ => planFits_encBlockContent)
      (input_of_runCommand h.eng hx)
  | decBlock =>
    exact h.benBlockInput hp rfl (fun _ _ _ => planFits_decBlockContent) (input_of_runCommand h.eng hx)
  | runsToBen32 =>
    exact h.countedInput hp rfl rfl (fun hops => (operandsPass_runsToBen32_iff s).2 (checkCount_none hops))
      (fun _ _ hb hpass => planFits_runsToBen32Content hb ((operandsPass_runsToBen32_iff s).1 hpass))
      (input_of_runCommand h.eng hx)
  | ben32ToRuns =>
    exact h.ben32Input hp rfl (fun _ _ hd _ => planFits_ben32ToRunsContent hd) (input_of_runCommand h.eng hx)
  | encBen32 =>
    exact h.countedInput hp rfl rfl (fun _ => rfl) (fun _ _ _ _ => planFits_encBen32Content)
      (input_of_runCommand h.eng hx)
  | blockToBen32 =>
    exact h.benBlockInput hp rfl (fun _ _ _ => planFits_blockToBen32Content) (input_of_runCommand h.eng hx)
  | ben32ToBlock =>
    exact h.ben32Input hp rfl (fun _ _ => planFits_ben32ToBlockContent) (input_of_runCommand h.eng hx)

/-! ### The output phase -/

theorem itemFits_of_bytes (bs : List Byte) : ∀ x ∈ bs.map Item.byte, itemFits x :=
  List.forall_mem_map.2 fun _ _ => trivial

/-- R173: the fields of a run that fits its widths. -/
theorem itemFits_runItems {f : OutForm} {runs : List Run} {r : Run} (h : FormFits f runs) (hr : r ∈ runs) :
    ∀ x ∈ runItems f r, itemFits x := by
  cases f with
  | nothing => exact itemFits_of_bytes []
  | records | labels | ben32 => exact itemFits_of_bytes _
  | packed vb lb =>
    obtain ⟨hw, hfit⟩ := h vb lb rfl
    obtain ⟨⟨hv1, hv16⟩, hl1, hl16⟩ := (widthsLegal_iff vb lb).1 hw
    obtain ⟨hv, hl⟩ := hfit r hr
    simp [runItems, itemFits, hv1, hv16, hl1, hl16, hv, hl]

theorem itemFits_closingItems (f : OutForm) : ∀ x ∈ closingItems f, itemFits x := by
  cases f with
  | nothing | records | labels => exact itemFits_of_bytes []
  | packed vb lb => simp [closingItems, itemFits]
  | ben32 => exact itemFits_of_bytes sentinel

/-- The engine is in the output phase of a legal command, and all but its position is known to fit. -/
structure InOutput (s : State) : Prop where
  eng : s.eng = .busyOutput
  fetch : ∃ i, s.fetch = .ok i
  capacity : WithinCapacity s
  acc : AccBounded s

namespace InOutput
variable {s : State}

/-- A new position in the output phase. -/
theorem setPos (h : InOutput s) {o : Output} (ho : OutputFits s o) : EngineFits (s.setPos (.writing o)) :=
  ⟨h.capacity, h.acc, (posFits_writing_iff (s := s.setPos (.writing o)) h.eng rfl).2 ⟨h.fetch, ho⟩⟩

theorem engineFits (h : InOutput s) {o : Output} (hpos : s.pos = .writing o) (ho : OutputFits s o) : EngineFits s :=
  ⟨h.capacity, h.acc, (posFits_writing_iff h.eng hpos).2 ⟨h.fetch, ho⟩⟩

theorem setAcc (h : InOutput s) {acc : BitVec 23} {n : Nat} (ha : AccBounded (s.setAcc acc n)) :
    InOutput (s.setAcc acc n) :=
  ⟨h.eng, h.fetch, h.capacity, ha⟩

theorem putOut (h : InOutput s) (hroom : s.outq.length < s.params.outDepth) (b : Byte) : InOutput (s.putOut b) := by
  obtain ⟨hin, -, hbuf⟩ := h.capacity
  refine ⟨h.eng, h.fetch, ⟨hin, ?_, hbuf⟩, h.acc⟩
  rw [State.putOut_outq, List.length_append]
  exact hroom

/-- `OutWrite(b)` (R125): what is left to show is how the engine goes on after the byte. -/
theorem outWrite (h : InOutput s) (hs : EngineFits s) (b : Byte) {next : State → State}
    (hnext : InOutput (s.putOut b) → EngineFits (next (s.putOut b))) : EngineFits (s.outWrite b next) := by
  rcases outWrite_cases s b next with ⟨hroom, he⟩ | ⟨-, he⟩ <;> rw [he]
  · exact hnext (h.putOut hroom b)
  · exact hs

/-- One step of the output phase. -/
theorem writeStep (h : InOutput s) {o : Output} (hpos : s.pos = .writing o) (ho : OutputFits s o) :
    EngineFits (s.writeStep o) := by
  have hs := h.engineFits hpos ho
  obtain ⟨hitems, hnext, hform⟩ := (outputFits_iff o).1 ho
  have rest_fits : ∀ {x rest}, o.items = x :: rest → OutputFits s { o with items := rest } := fun hi =>
    (outputFits_iff _).2 ⟨fun y hy => hitems y (hi ▸ List.mem_cons_of_mem _ hy), hnext, hform⟩
  rcases writeStep_cases s o with ⟨-, he⟩ | ⟨hn, ⟨b, rest, hi, he⟩ | ⟨x, w, rest, hi, he⟩ | ⟨rest, hi, -, he⟩ |
    ⟨rest, hi, -, he⟩ | ⟨r, -, hr, he⟩ | ⟨-, -, -, he⟩ | ⟨-, -, -, he⟩⟩ <;> rw [he]
  · exact h.outWrite hs _ fun h' => (h'.setAcc (h'.acc.drop 8)).engineFits hpos ho
  · exact h.outWrite hs _ fun h' => h'.setPos (rest_fits hi)
  · obtain ⟨-, hw, hx⟩ : itemFits (.push x w) := hitems _ (hi ▸ List.mem_cons_self)
    exact (h.setAcc (h.acc.shiftIn (by omega) hx)).setPos (rest_fits hi)
  · exact (h.setAcc (.of_empty rfl rfl)).setPos (rest_fits hi)
  · exact h.outWrite hs _ fun h' => (h'.setAcc (.of_empty rfl rfl)).setPos (rest_fits hi)
  · obtain ⟨hlt, hget⟩ := List.getElem?_eq_some_iff.1 hr
    have hmem : r ∈ s.runBuf := hget ▸ List.getElem_mem hlt
    exact h.setPos ((outputFits_iff _).2 ⟨itemFits_runItems hform hmem, hlt, hform⟩)
  · exact h.setPos ((outputFits_iff _).2 ⟨itemFits_closingItems o.form, hnext, hform⟩)
  · exact engineFits_complete h.capacity h.acc o.upd

end InOutput

/-! ### The whole invariant -/

theorem EngineFits.engineTurn {s t : State} (h : EngineFits s) (hx : engineTurn s = .next t) : EngineFits t := by
  obtain ⟨hcap, hacc, hpos⟩ := h
  rcases engineTurn_cases s with ⟨-, hs⟩ | ⟨-, r, -, hs⟩ | ⟨-, i, hf, hs⟩ <;> rw [hs] at hx
  · cases hx
    exact ⟨hcap, hacc, hpos⟩
  · cases hx
    exact engineFits_raise hcap _
  · rcases exec_cases hx with ⟨-, rfl⟩ | ⟨he, -⟩ | ⟨he, o, hw, rfl⟩
    · exact ⟨hcap, hacc, hpos⟩
    · exact InInput.exec ⟨he, hf, hcap, hacc⟩ ((posFits_input_iff he hf).1 hpos) hx
    · obtain ⟨hfetch, ho⟩ := (posFits_writing_iff he hw).1 hpos
      exact InOutput.writeStep ⟨he, hfetch, hcap, hacc⟩ hw ho

/-- Acceptance (R121): the position is the start of the input phase, whether the word is legal or not. -/
theorem EngineFits.accept {s : State} (h : EngineFits s) (v : Word) : EngineFits (s.accept v) := by
  obtain ⟨⟨hin, hout, -⟩, -, -⟩ := h
  refine ⟨⟨hin, hout, Nat.zero_le _⟩, .of_empty rfl rfl, ?_⟩
  cases hf : (s.accept v).fetch with
  | ok i => exact (posFits_input_iff rfl hf).2 ((inputFits_start_iff rfl).2 rfl)
  | error r => simp [PosFits, hf]

theorem EngineFits.hostEffect {s t : State} (h : EngineFits s) (hx : HostEffect s t) : EngineFits t := by
  obtain ⟨⟨hin, hout, hbuf⟩, hacc, hpos⟩ := h
  cases hx with
  | quiet strict inEof vb lb bl count blockCount reads free ht => exact ht ▸ ⟨⟨hin, hout, hbuf⟩, hacc, hpos⟩
  | overrun ht => exact ht ▸ ⟨⟨hin, hout, hbuf⟩, hacc, hpos⟩
  | push b hq ht =>
    subst ht
    refine ⟨⟨?_, hout, hbuf⟩, hacc, hpos⟩
    rw [State.setIn_inq, List.length_append]
    exact Nat.lt_of_le_of_ne hin hq
  | pop v ht =>
    subst ht
    refine ⟨⟨hin, ?_, hbuf⟩, hacc, hpos⟩
    rw [State.popOut_outq, List.length_tail]
    exact (Nat.sub_le _ _).trans hout
  | accept v hi ht => exact ht ▸ EngineFits.accept ⟨⟨hin, hout, hbuf⟩, hacc, hpos⟩ v
  | abort ht =>
    exact ht ▸ ⟨⟨Nat.zero_le _, Nat.zero_le _, Nat.zero_le _⟩, .of_empty rfl rfl, posFits_of_none (.inl rfl) rfl⟩

theorem engineFits_resetEvent (s : State) : EngineFits s.resetEvent :=
  ⟨⟨Nat.zero_le _, Nat.zero_le _, Nat.zero_le _⟩, .of_empty rfl rfl, posFits_of_none (.inl rfl) rfl⟩

/-- R8: no engine step changes the parameters. -/
theorem engineTurn_params {s t : State} (hx : engineTurn s = .next t) : t.params = s.params := by
  rcases engineTurn_cases s with ⟨-, hs⟩ | ⟨-, r, -, hs⟩ | ⟨-, i, -, hs⟩ <;> rw [hs] at hx
  · cases hx; rfl
  · cases hx; rfl
  · rcases exec_cases hx with ⟨-, rfl⟩ | ⟨-, hst⟩ | ⟨-, o, -, rfl⟩
    · rfl
    · cases hst <;> subst t <;> rfl
    · rcases writeStep_shape s o with ⟨acc, n, p, ht⟩ | ⟨b, acc, n, p, -, ht⟩ | ht | ht <;> rw [ht] <;> rfl

theorem HostEffect.params_eq {s t : State} (hx : HostEffect s t) : t.params = s.params := by
  cases hx <;> subst t <;> rfl

/-- Settles O52: the parameters do not change, STATUS is O51's, and the rest is kept by every operation. -/
theorem stepKeepsTheInvariant : Obligations.StepKeepsTheInvariant := by
  intro s t h hx
  refine step_keeps (P := Inv) (fun s ts h => h) (fun s t h hx => ?_) (fun s t h hx => ?_) (fun s h => ?_) h hx
  · obtain ⟨hwf, hst, hfit⟩ := (inv_iff s).1 h
    exact (inv_iff t).2 ⟨engineTurn_params hx ▸ hwf, hst.engineTurn hx, hfit.engineTurn hx⟩
  · obtain ⟨hwf, hst, hfit⟩ := (inv_iff s).1 h
    exact (inv_iff t).2 ⟨hx.params_eq ▸ hwf, hst.hostEffect hx, hfit.hostEffect hx⟩
  · obtain ⟨hwf, -, -⟩ := (inv_iff s).1 h
    exact (inv_iff _).2 ⟨hwf, statusAgrees_of_zero rfl rfl, engineFits_resetEvent s⟩

end Sys2Proof.Machine

/-! ## Host accesses: refusal, and what they cannot reach while a command runs (R67, R78) -/

namespace Sys2Proof.Machine

open Sys2Proof

/-! ### Refusal -/

theorem step_of_access_turn {s : State} {a : Access} {ts : List Turn} (h : s.turns = .access a :: ts) :
    step s = hostTurn (s.setTurns ts) a := by
  simp [step, h]

/-- The negation of `problem_eq_none_iff`, as R67 lists the ways to be outside. -/
theorem exists_problem_iff (base : Nat) (a : Access) :
    (∃ why, a.problem base = some why) ↔
      a.bytes ≠ 4 ∨ a.addr < base ∨ base + 256 ≤ a.addr ∨ (a.addr - base) % 4 ≠ 0 := by
  rw [← Option.ne_none_iff_exists', ne_eq, problem_eq_none_iff]
  omega

theorem hostTurn_of_problem {s : State} {a : Access} {why : AccessProblem}
    (h : a.problem s.params.base = some why) : hostTurn s a = .refused (.badAccess why) := by
  simp [hostTurn, h]

theorem hostTurn_read {s : State} {addr n : Nat} (h : (Access.read addr n).problem s.params.base = none) :
    hostTurn s (.read addr n) = .next (s.readReg (regAt (addr - s.params.base))) := by
  simp [hostTurn, h]

theorem hostTurn_write {s : State} {addr n : Nat} {v : Word}
    (h : (Access.write addr n v).problem s.params.base = none) :
    hostTurn s (.write addr n v) = .next (s.writeReg (regAt (addr - s.params.base)) v) := by
  simp [hostTurn, h]

/-- Settles O6: the access has a problem exactly outside the interface; without one it is a read or a write. -/
theorem hostTurnsAreRefusedExactlyOutsideTheInterface :
    Obligations.HostTurnsAreRefusedExactlyOutsideTheInterface := by
  intro s ts a ht
  rw [step_of_access_turn ht]
  refine ⟨fun hout => ?_, fun hbytes hlow hhigh halign => ?_⟩
  · obtain ⟨why, hp⟩ := (exists_problem_iff s.params.base a).2 hout
    exact ⟨why, hostTurn_of_problem (s := s.setTurns ts) hp⟩
  · have hp : a.problem (s.setTurns ts).params.base = none :=
      (problem_eq_none_iff _ a).2 ⟨hbytes, hlow, hhigh, halign⟩
    cases a with
    | read addr n =>
      obtain rfl : n = 4 := hbytes
      exact ⟨_, hostTurn_read hp, .inr ⟨rfl, rfl⟩⟩
    | write addr n v =>
      obtain rfl : n = 4 := hbytes
      exact ⟨_, hostTurn_write hp, .inl ⟨v, rfl, rfl⟩⟩

/-! ### The running command -/

/-- `t` is `s` but for what R78 leaves to the host beside a running command: the queues, IN_EOF, the flags, and the
values its reads returned. -/
def OnlyHostSide (s t : State) : Prop :=
  ∃ inEof status inq outq reads,
    t = { s with inEof := inEof, status := status, inq := inq, outq := outq, reads := reads }

theorem OnlyHostSide.refl (s : State) : OnlyHostSide s s := ⟨_, _, _, _, _, rfl⟩

theorem OnlyHostSide.overrun (s : State) : OnlyHostSide s s.overrun := ⟨_, _, _, _, _, rfl⟩

theorem OnlyHostSide.readReg (s : State) (r : Reg) : OnlyHostSide s (s.readReg r) := by
  cases r <;> exact ⟨_, _, _, _, _, rfl⟩

theorem OnlyHostSide.writeInData (s : State) (v : Word) : OnlyHostSide s (s.writeInData v) := by
  unfold State.writeInData
  split
  · exact .refl s
  · split
    · exact .overrun s
    · exact ⟨_, _, _, _, _, rfl⟩

/-- R39: beside a running command a CTRL write without ABORT can only set IN_EOF. -/
theorem OnlyHostSide.writeCtrl {s : State} (hb : s.eng.busy = true) {v : Word} (hv : v.getLsbD 1 = false) :
    OnlyHostSide s (s.writeCtrl v) := by
  rw [writeCtrl_without_abort hv, writeCtrlFields_of_busy hb]
  exact ⟨_, _, _, _, _, rfl⟩

theorem ne_idle_of_busy {s : State} (hb : s.eng.busy = true) : s.eng ≠ .idle := by
  intro hi
  rw [hi] at hb
  cases hb

theorem OnlyHostSide.writeReg {s : State} (hb : s.eng.busy = true) {r : Reg} {v : Word}
    (hv : r = .ctrl → v.getLsbD 1 = false) : OnlyHostSide s (s.writeReg r v) := by
  cases r with
  | ctrl => exact .writeCtrl hb (hv rfl)
  | cmd =>
    have hdrop : s.writeReg .cmd v = s.overrun := writeCmd_of_ne_idle (ne_idle_of_busy hb) v
    exact hdrop ▸ .overrun s
  | inData => exact .writeInData s v
  | valueBits | lengthBits | byteLength | count | blockCount =>
    rw [writeReg_operand_of_busy hb v rfl]
    exact .refl s
  | _ => exact .refl s

/-- CTRL stands at offset 4 alone (R21), so a write of it with bit 1 is the abort of `isAbort`. -/
theorem regAt_eq_ctrl {off : Nat} (h : regAt off = .ctrl) : off = 4 := by
  unfold regAt at h
  split at h
  case h_2 => rfl
  all_goals cases h

theorem getLsbD_of_not_isAbort {base addr n : Nat} {v : Word} (h : isAbort base (.write addr n v) = false)
    (hr : regAt (addr - base) = .ctrl) : v.getLsbD 1 = false := by
  have haddr : addr = base + 4 := by
    have := regAt_eq_ctrl hr
    omega
  simpa [isAbort, haddr] using h

theorem OnlyHostSide.hostTurn {s t : State} {a : Access} (h : hostTurn s a = .next t) (hb : s.eng.busy = true)
    (ha : isAbort s.params.base a = false) : OnlyHostSide s t := by
  rcases hostTurn_cases s a with ⟨why, -, hs⟩ | ⟨addr, n, -, -, hs⟩ | ⟨addr, n, v, rfl, -, hs⟩ <;> rw [hs] at h <;>
    cases h
  · exact .readReg s _
  · exact .writeReg hb (getLsbD_of_not_isAbort ha)

/-- Settles O24: none of the fields named is on the host's side. -/
theorem hostCannotDisturbTheRunningCommand : Obligations.HostCannotDisturbTheRunningCommand := by
  intro s t a h hb ha
  obtain ⟨inEof, status, inq, outq, reads, rfl⟩ := OnlyHostSide.hostTurn h hb ha
  exact ⟨rfl, rfl, rfl, rfl, rfl, rfl, rfl, rfl, rfl, rfl, rfl, rfl, rfl, rfl, rfl, rfl⟩

end Sys2Proof.Machine

/-! ## The command word: decoder and encoder (R80 to R82) -/

namespace Sys2Proof

/-! ### The two fields of a word -/

@[simp] theorem opcodeField_commandWord (r : BitVec 24) (op : Byte) : opcodeField (commandWord r op) = op :=
  BitVec.extractLsb'_append_eq_right

@[simp] theorem rsvdField_commandWord (r : BitVec 24) (op : Byte) : rsvdField (commandWord r op) = r :=
  BitVec.extractLsb'_append_eq_left

@[simp] theorem commandWord_fields (w : Word) : commandWord (rsvdField w) (opcodeField w) = w :=
  BitVec.extractLsb'_append_extractLsb' (w := 24) (len := 8)

theorem eq_encode_iff {w : Word} {i : Instr} : w = encode i ↔ rsvdField w = 0 ∧ opcodeField w = opcode i := by
  constructor
  · rintro rfl
    exact ⟨rsvdField_commandWord _ _, opcodeField_commandWord _ _⟩
  · rintro ⟨hr, ho⟩
    rw [encode, ← hr, ← ho, commandWord_fields]

/-! ### The opcode map (R81) and its gaps (R82) -/

@[simp] theorem opcodeInstr_opcode (i : Instr) : opcodeInstr (opcode i) = some i := by cases i <;> rfl

theorem opcodeInstr_eq_some_iff {op : Byte} {i : Instr} : opcodeInstr op = some i ↔ op = opcode i := by
  constructor
  · intro h
    unfold opcodeInstr at h
    split at h <;> cases h <;> exact BitVec.eq_of_toNat_eq ‹_›
  · rintro rfl
    exact opcodeInstr_opcode i

theorem opcodeInstr_eq_none_iff {op : Byte} :
    opcodeInstr op = none ↔
      (0x04 ≤ op.toNat ∧ op.toNat ≤ 0x0F) ∨ (0x12 ≤ op.toNat ∧ op.toNat ≤ 0x1F) ∨
      (0x23 ≤ op.toNat ∧ op.toNat ≤ 0x2F) ∨ (0x32 ≤ op.toNat ∧ op.toNat ≤ 0x3F) ∨ 0x45 ≤ op.toNat := by
  unfold opcodeInstr
  split
  case h_17 => -- no row of the map
    simp only [imp_false, true_iff] at *; omega
  all_goals simp only [reduceCtorEq, false_iff]; omega

/-! ### The three answers of `decode` -/

theorem decode_of_rsvd_ne_zero {w : Word} (h : rsvdField w ≠ 0) : decode w = .error .reservedBits := if_pos h

theorem decode_of_some {w : Word} {i : Instr} (hr : rsvdField w = 0) (ho : opcodeInstr (opcodeField w) = some i) :
    decode w = .ok i := by simp [decode, hr, ho]

theorem decode_of_none {w : Word} (hr : rsvdField w = 0) (ho : opcodeInstr (opcodeField w) = none) :
    decode w = .error .unassignedOpcode := by simp [decode, hr, ho]

theorem decode_cases (w : Word) :
    (rsvdField w ≠ 0 ∧ decode w = .error .reservedBits) ∨
    (∃ i, rsvdField w = 0 ∧ opcodeInstr (opcodeField w) = some i ∧ decode w = .ok i) ∨
    (rsvdField w = 0 ∧ opcodeInstr (opcodeField w) = none ∧ decode w = .error .unassignedOpcode) := by
  by_cases hr : rsvdField w = 0
  · cases ho : opcodeInstr (opcodeField w) with
    | some i => exact .inr (.inl ⟨i, hr, rfl, decode_of_some hr ho⟩)
    | none => exact .inr (.inr ⟨hr, rfl, decode_of_none hr ho⟩)
  · exact .inl ⟨hr, decode_of_rsvd_ne_zero hr⟩

theorem decode_eq_ok_iff {w : Word} {i : Instr} : decode w = .ok i ↔ w = encode i := by
  rw [eq_encode_iff, ← opcodeInstr_eq_some_iff]
  obtain ⟨hr, hd⟩ | ⟨j, hr, ho, hd⟩ | ⟨hr, ho, hd⟩ := decode_cases w
  · simpa [hd] using fun h _ => hr h
  · simp [hd, hr, ho]
  · simp [hd, ho]

theorem decode_eq_reservedBits_iff {w : Word} : decode w = .error .reservedBits ↔ rsvdField w ≠ 0 := by
  obtain ⟨hr, hd⟩ | ⟨j, hr, -, hd⟩ | ⟨hr, -, hd⟩ := decode_cases w
  · exact iff_of_true hd hr
  · simp [hd, hr]
  · simp [hd, hr]

theorem decode_eq_unassignedOpcode_iff {w : Word} :
    decode w = .error .unassignedOpcode ↔ rsvdField w = 0 ∧ opcodeInstr (opcodeField w) = none := by
  obtain ⟨hr, hd⟩ | ⟨j, hr, ho, hd⟩ | ⟨hr, ho, hd⟩ := decode_cases w
  · simpa [hd] using fun h _ => hr h
  · simp [hd, ho]
  · simp [hd, hr, ho]

@[simp] theorem decode_encode (i : Instr) : decode (encode i) = .ok i := decode_eq_ok_iff.2 rfl

/-- Settles O2: each answer of `decode` is read off the fields, and the opcode map's gaps are the ranges of R82. -/
theorem decodeAcceptsExactlyTheOpcodeMap : Obligations.DecodeAcceptsExactlyTheOpcodeMap :=
  ⟨fun _ _ => decode_eq_ok_iff, fun _ => decode_eq_reservedBits_iff,
    fun _ => decode_eq_unassignedOpcode_iff.trans (and_congr_right' opcodeInstr_eq_none_iff)⟩

/-- Settles O1. -/
theorem decodeEncodeRoundTrip : Obligations.DecodeEncodeRoundTrip := fun i _ => decode_encode i

/-- Settles O3: the accepted words are the encodings of their commands; 0x100 sets a RSVD bit, 0x12 is in a gap. -/
theorem decodeOfWrittenOutWords : Obligations.DecodeOfWrittenOutWords :=
  ⟨decode_encode .nop, decode_encode .copyMagic, decode_encode .rleEnc, decode_encode .pack, decode_encode .decBlock,
    decode_encode .ben32ToBlock, decode_of_rsvd_ne_zero (by decide), decode_of_none rfl rfl⟩

end Sys2Proof

/-! ## The command model: lifecycle, streams and phases (40_command_model.md) -/

namespace Sys2Proof.Machine

open Sys2Proof

/-! ### The skeleton of a step (R45) -/

theorem runCommand_of_input {s : State} (he : s.eng = .busyInput) (input : State → Result) :
    runCommand input s = input s := by
  simp [runCommand, he]

theorem runCommand_of_writing {s : State} {o : Output} (he : s.eng = .busyOutput) (hp : s.pos = .writing o)
    (input : State → Result) : runCommand input s = .next (s.writeStep o) := by
  simp [runCommand, he, hp]

/-- Every command is the shared skeleton around an input phase of its own. -/
theorem exec_eq_runCommand (i : Instr) (s : State) : ∃ input, exec i s = runCommand input s := by
  cases i <;> exact ⟨_, rfl⟩

/-- R126: the output phase is the same for every command. -/
theorem exec_of_writing {s : State} {o : Output} (i : Instr) (he : s.eng = .busyOutput) (hp : s.pos = .writing o) :
    exec i s = .next (s.writeStep o) := by
  obtain ⟨input, hi⟩ := exec_eq_runCommand i s
  rw [hi, runCommand_of_writing he hp]

/-! ### The input phase of each kind of command -/

/-- The code an `InRead()` raises where the input is short (R263, R264). -/
def shortError (i : Instr) : ErrorCode := if readsMagic i then .formatError else .truncatedStream

theorem shortError_of_readsBenBlock {i : Instr} (h : readsBenBlock i = true) : shortError i = .truncatedStream := by
  cases i with
  | decBlock | blockToBen32 => rfl
  | _ => cases h

theorem shortError_of_readsBen32 {i : Instr} (h : readsBen32 i = true) : shortError i = .truncatedStream := by
  cases i with
  | ben32ToRuns | ben32ToBlock => rfl
  | _ => cases h

section

variable {i : Instr} {s : State}

theorem exec_counted (he : s.eng = .busyInput) (hi : readsCounted i = true) :
    ∃ operands content, exec i s = countedInput operands (inputBytes i s.latch) (shortError i) content s := by
  cases i with
  | chkMagic | copyMagic | rleEnc | rleDec | width | pack | encBlock | runsToBen32 | encBen32 =>
    exact ⟨_, _, runCommand_of_input he _⟩
  | _ => cases hi

theorem exec_unpack (he : s.eng = .busyInput) : exec .unpack s = payloadInput unpackContent s :=
  runCommand_of_input he _

theorem exec_benBlock (he : s.eng = .busyInput) (hi : readsBenBlock i = true) :
    ∃ content, exec i s = benBlockInput content s := by
  cases i with
  | decBlock | blockToBen32 => exact ⟨_, runCommand_of_input he _⟩
  | _ => cases hi

theorem exec_ben32 (he : s.eng = .busyInput) (hi : readsBen32 i = true) :
    ∃ content, exec i s = ben32Input content s := by
  cases i with
  | ben32ToRuns | ben32ToBlock => exact ⟨_, runCommand_of_input he _⟩
  | _ => cases hi

end

/-! ### The positions whose step is an `InRead()` or an `AtEnd()` (R124) -/

theorem countedInput_short {s : State} {got : List Byte} {n : Nat} (hp : s.pos = .bytes got) (h : got.length < n)
    (operands : Option ErrorCode) (short : ErrorCode) (content : List Byte → Except ErrorCode Plan) :
    countedInput operands n short content s =
      .next (s.inRead (fun b t => t.setPos (.bytes (got ++ [b]))) fun t => t.raise short) := by
  simp [countedInput, hp, h]

theorem payloadStep_short {p : Payload} (h : 0 < p.left) (content : Payload → List Run → Except ErrorCode Plan)
    (s : State) :
    payloadStep content s p = s.inRead (fun b t => t.payloadByte p b) fun t => t.raise .truncatedStream := by
  simp [payloadStep, h]

theorem payloadInput_payload {s : State} {p : Payload} (hp : s.pos = .payload p)
    (content : Payload → List Run → Except ErrorCode Plan) :
    payloadInput content s = .next (payloadStep content s p) := by
  simp [payloadInput, hp]

theorem benBlockInput_start {s : State} (hp : s.pos = .start)
    (content : Payload → List Run → Except ErrorCode Plan) :
    benBlockInput content s = .next (s.atEnd (fun t => t.setPos (.header [])) fun t => t.completeEnd) := by
  simp [benBlockInput, hp]

theorem benBlockInput_header_short {s : State} {got : List Byte} (hp : s.pos = .header got) (h : got.length < 6)
    (content : Payload → List Run → Except ErrorCode Plan) :
    benBlockInput content s =
      .next (s.inRead (fun b t => t.setPos (.header (got ++ [b]))) fun t => t.raise .truncatedStream) := by
  simp [benBlockInput, hp, h]

theorem benBlockInput_payload {s : State} {p : Payload} (hp : s.pos = .payload p)
    (content : Payload → List Run → Except ErrorCode Plan) :
    benBlockInput content s = .next (payloadStep content s p) := by
  simp [benBlockInput, hp]

theorem ben32Input_start {s : State} (hp : s.pos = .start) (content : List Run → Except ErrorCode Plan) :
    ben32Input content s = .next (s.atEnd (fun t => t.setPos (.words [] [])) fun t => t.completeEnd) := by
  simp [ben32Input, hp]

theorem ben32Input_words_short {s : State} {part : List Byte} {runs : List Run} (hp : s.pos = .words part runs)
    (h : part.length < 4) (content : List Run → Except ErrorCode Plan) :
    ben32Input content s =
      .next (s.inRead (fun b t => t.setPos (.words (part ++ [b]) runs)) fun t => t.raise .truncatedStream) := by
  simp only [ben32Input, hp]
  split
  · cases Nat.lt_irrefl 4 h
  · rw [if_pos h]

theorem wantsByte_cases {i : Instr} {s : State} (h : wantsByte i s = true) :
    s.eng = .busyInput ∧
      ((∃ got, s.pos = .bytes got ∧ readsCounted i = true ∧ got.length < inputBytes i s.latch) ∨
       (∃ got, s.pos = .header got ∧ readsBenBlock i = true ∧ got.length < 6) ∨
       (∃ p, s.pos = .payload p ∧ (i = .unpack ∨ readsBenBlock i = true) ∧ 0 < p.left) ∨
       (∃ part runs, s.pos = .words part runs ∧ readsBen32 i = true ∧ part.length < 4)) := by
  simp only [wantsByte, Bool.and_eq_true, beq_iff_eq] at h
  obtain ⟨he, h⟩ := h
  refine ⟨he, ?_⟩
  split at h
  next got hp => exact .inl ⟨got, hp, by simpa using h⟩
  next got hp => exact .inr (.inl ⟨got, hp, by simpa using h⟩)
  next p hp => exact .inr (.inr (.inl ⟨p, hp, by simpa using h⟩))
  next part runs hp => exact .inr (.inr (.inr ⟨part, runs, hp, by simpa using h⟩))
  next => cases h

/-- The step of `i` in `s` is an `InRead()` that raises the short-input error of `i`, and goes on with a byte without
touching IN or the engine state. -/
def IsInRead (i : Instr) (s : State) : Prop :=
  ∃ next : Byte → State → State,
    exec i s = .next (s.inRead next fun t => t.raise (shortError i)) ∧
      ∀ b t, (next b t).inq = t.inq ∧ (next b t).eng = t.eng

theorem isInRead_of_wantsByte {i : Instr} {s : State} (h : wantsByte i s = true) : IsInRead i s := by
  obtain ⟨he, ⟨got, hp, hi, hn⟩ | ⟨got, hp, hi, hn⟩ | ⟨p, hp, rfl | hi, hn⟩ | ⟨part, runs, hp, hi, hn⟩⟩ :=
    wantsByte_cases h
  · obtain ⟨operands, content, hx⟩ := exec_counted he hi
    exact ⟨_, hx.trans (countedInput_short hp hn _ _ _), fun _ _ => ⟨rfl, rfl⟩⟩
  · obtain ⟨content, hx⟩ := exec_benBlock he hi
    rw [IsInRead, shortError_of_readsBenBlock hi]
    exact ⟨_, hx.trans (benBlockInput_header_short hp hn _), fun _ _ => ⟨rfl, rfl⟩⟩
  · refine ⟨fun b t => t.payloadByte p b, ?_, fun _ _ => ⟨rfl, rfl⟩⟩
    rw [exec_unpack he, payloadInput_payload hp, payloadStep_short hn]
    rfl
  · obtain ⟨content, hx⟩ := exec_benBlock he hi
    refine ⟨fun b t => t.payloadByte p b, ?_, fun _ _ => ⟨rfl, rfl⟩⟩
    rw [hx, benBlockInput_payload hp, payloadStep_short hn, shortError_of_readsBenBlock hi]
  · obtain ⟨content, hx⟩ := exec_ben32 he hi
    rw [IsInRead, shortError_of_readsBen32 hi]
    exact ⟨_, hx.trans (ben32Input_words_short hp hn _), fun _ _ => ⟨rfl, rfl⟩⟩

theorem peeksInput_iff {i : Instr} {s : State} :
    peeksInput i s = true ↔
      s.eng = .busyInput ∧ s.pos = .start ∧ (readsBenBlock i = true ∨ readsBen32 i = true) := by
  simp [peeksInput, and_assoc]

/-- R129: a block command begins with `AtEnd()`, and END follows where the input is over. -/
theorem exec_of_peeksInput {i : Instr} {s : State} (h : peeksInput i s = true) :
    ∃ p, exec i s = .next (s.atEnd (fun t => t.setPos p) fun t => t.completeEnd) := by
  obtain ⟨he, hp, hi | hi⟩ := peeksInput_iff.1 h
  · obtain ⟨content, hx⟩ := exec_benBlock he hi
    exact ⟨_, hx.trans (benBlockInput_start hp _)⟩
  · obtain ⟨content, hx⟩ := exec_ben32 he hi
    exact ⟨_, hx.trans (ben32Input_start hp _)⟩

theorem atEnd_eof {s : State} (h : s.inq = []) (he : s.inEof = true) (onMore onEnd : State → State) :
    s.atEnd onMore onEnd = onEnd s := by
  simp [State.atEnd, h, he]

theorem atEnd_wait {s : State} (h : s.inq = []) (he : s.inEof = false) (onMore onEnd : State → State) :
    s.atEnd onMore onEnd = s := by
  simp [State.atEnd, h, he]

/-- Settles O20: the step is one `inRead` or one `atEnd`, and each of the three clauses is one of their equations. -/
theorem inReadTakesTheHeadOrWaits : Obligations.InReadTakesTheHeadOrWaits := by
  refine ⟨fun i s h hq heof => ?_, fun i s b rest h hq => ?_, fun i s h hq heof => ?_⟩
  · rcases h with h | h
    · obtain ⟨next, hx, -⟩ := isInRead_of_wantsByte h
      rw [hx, inRead_wait hq heof]
    · obtain ⟨p, hx⟩ := exec_of_peeksInput h
      rw [hx, atEnd_wait hq heof]
  · obtain ⟨next, hx, hkeep⟩ := isInRead_of_wantsByte h
    obtain ⟨hinq, heng⟩ := hkeep b (s.setIn rest)
    exact ⟨_, by rw [hx, inRead_cons hq], hinq, heng.trans (wantsByte_cases h).1⟩
  · obtain ⟨next, hx, -⟩ := isInRead_of_wantsByte h
    rw [hx, inRead_eof hq heof]
    rfl

/-- Settles O10. -/
theorem endCompletionIsOneStep : Obligations.EndCompletionIsOneStep := by
  intro i s hi he hp hq heof
  have hblock : readsBenBlock i = true ∨ readsBen32 i = true := by
    rcases hi with rfl | rfl | rfl | rfl <;> decide
  obtain ⟨p, hx⟩ := exec_of_peeksInput (peeksInput_iff.2 ⟨he, hp, hblock⟩)
  rw [hx, atEnd_eof hq heof]
  rfl

/-! ### What the phases may touch (R126, R74) -/

theorem InputStep.outq_eq {s t : State} (h : InputStep s t) : t.outq = s.outq := by
  cases h with
  | wait h | raise _ h | move _ h | take _ _ _ _ _ _ h | leave _ h | atEnd _ _ h => exact h ▸ rfl

/-- R124: an input step leaves IN alone, takes its head, or flushes it at error entry. -/
theorem InputStep.inq_cases {s t : State} (h : InputStep s t) :
    t.inq = s.inq ∨ (∃ b, s.inq = b :: t.inq) ∨ (t.inq = [] ∧ t.eng = .error) := by
  cases h with
  | wait h | move _ h | leave _ h | atEnd _ _ h => exact .inl (h ▸ rfl)
  | take b rest p acc n hq h => exact .inr (.inl ⟨b, h ▸ hq⟩)
  | raise e h => exact .inr (.inr (h ▸ ⟨rfl, rfl⟩))

/-- An output step leaves the input side and the run buffer alone and ends in BUSY.OUTPUT or, by completion, in IDLE. -/
theorem writeStep_frame {s : State} (he : s.eng = .busyOutput) (o : Output) :
    (s.writeStep o).inq = s.inq ∧ (s.writeStep o).inEof = s.inEof ∧ (s.writeStep o).eng ≠ .error ∧
      (s.writeStep o).runBuf = s.runBuf := by
  have hne : s.eng ≠ .error := by simp [he]
  rcases writeStep_shape s o with ⟨acc, n, p, ht⟩ | ⟨b, acc, n, p, -, ht⟩ | ht | ht <;> rw [ht]
  · exact ⟨rfl, rfl, hne, rfl⟩
  · exact ⟨rfl, rfl, hne, rfl⟩
  · exact ⟨rfl, rfl, hne, rfl⟩
  · exact ⟨rfl, rfl, nofun, rfl⟩

theorem writeStep_outq_cases (s : State) (o : Output) :
    (s.writeStep o).outq = s.outq ∨
      (s.outq.length < s.params.outDepth ∧ ∃ b, (s.writeStep o).outq = s.outq ++ [b]) := by
  rcases writeStep_shape s o with ⟨acc, n, p, ht⟩ | ⟨b, acc, n, p, hroom, ht⟩ | ht | ht <;> rw [ht]
  · exact .inl rfl
  · exact .inr ⟨hroom, b, rfl⟩
  · exact .inl rfl
  · exact .inl rfl

/-- Settles O22: the engine state says which of the three kinds of step it is. -/
theorem phasesKeepTheirDiscipline : Obligations.PhasesKeepTheirDiscipline := by
  intro i s t hx
  rcases exec_cases hx with ⟨hi | hi, rfl⟩ | ⟨he, hst⟩ | ⟨he, o, -, rfl⟩
  · simp [hi]
  · simp [hi]
  · simp only [he, reduceCtorEq, false_implies, or_self, and_true, true_implies]
    exact ⟨hst.outq_eq, hst.inq_cases⟩
  · obtain ⟨hinq, heof, heng, hbuf⟩ := writeStep_frame he o
    simp only [he, reduceCtorEq, false_implies, or_self, and_true, true_and, true_implies]
    exact ⟨hinq, heof, heng, hbuf, writeStep_outq_cases s o⟩

/-! ### What the engine leaves alone (R128, R139) -/

/-- The six result registers of R139 are the same. -/
def SameResults (s t : State) : Prop :=
  t.valueBits = s.valueBits ∧ t.lengthBits = s.lengthBits ∧ t.byteLength = s.byteLength ∧
    t.runCount = s.runCount ∧ t.labelCount = s.labelCount ∧ t.blockCount = s.blockCount

/-- What only the host, acceptance and reset change is the same: the control registers, the latched operands, OVR, the
parameters, and what stands outside the block. -/
def SameControl (s t : State) : Prop :=
  t.strict = s.strict ∧ t.cmd = s.cmd ∧ t.count = s.count ∧ t.latch = s.latch ∧ t.status.ovr = s.status.ovr ∧
    t.params = s.params ∧ t.turns = s.turns ∧ t.reads = s.reads ∧ t.freeCount = s.freeCount

theorem SameResults.refl (s : State) : SameResults s s := ⟨rfl, rfl, rfl, rfl, rfl, rfl⟩

theorem SameControl.refl (s : State) : SameControl s s := ⟨rfl, rfl, rfl, rfl, rfl, rfl, rfl, rfl, rfl⟩

theorem SameResults.inputStep {s t : State} (h : InputStep s t) : SameResults s t := by
  cases h with
  | wait h | raise _ h | move _ h | take _ _ _ _ _ _ h | leave _ h | atEnd _ _ h => exact h ▸ .refl s

theorem SameControl.inputStep {s t : State} (h : InputStep s t) : SameControl s t := by
  cases h with
  | wait h | raise _ h | move _ h | take _ _ _ _ _ _ h | leave _ h | atEnd _ _ h => exact h ▸ .refl s

/-- An output step that does not go to IDLE is no completion. -/
theorem SameResults.writeStep {s : State} {o : Output} (h : (s.writeStep o).eng ≠ .idle) :
    SameResults s (s.writeStep o) := by
  rcases writeStep_shape s o with ⟨acc, n, p, ht⟩ | ⟨b, acc, n, p, -, ht⟩ | ht | ht <;> rw [ht]
  · exact .refl s
  · exact .refl s
  · exact .refl s
  · cases h (ht ▸ rfl)

theorem SameControl.writeStep (s : State) (o : Output) : SameControl s (s.writeStep o) := by
  rcases writeStep_shape s o with ⟨acc, n, p, ht⟩ | ⟨b, acc, n, p, -, ht⟩ | ht | ht <;> rw [ht] <;> exact .refl s

/-- Settles O23: among the shapes of a step only `complete` writes a result register, and it leads from BUSY.OUTPUT to
IDLE. -/
theorem registersChangeOnlyAtCompletion : Obligations.RegistersChangeOnlyAtCompletion := by
  intro i s t hx
  change (¬ _ → SameResults s t) ∧ SameControl s t
  rcases exec_cases hx with ⟨-, rfl⟩ | ⟨-, hst⟩ | ⟨he, o, -, rfl⟩
  · exact ⟨fun _ => .refl _, .refl _⟩
  · exact ⟨fun _ => .inputStep hst, .inputStep hst⟩
  · exact ⟨fun hne => .writeStep fun hi => hne ⟨he, hi⟩, .writeStep s o⟩

/-! ### The steps of the output phase (R125, R174) -/

section

variable {s : State} {o : Output}

theorem writeStep_emit (h : 8 ≤ s.accN) (o : Output) :
    s.writeStep o =
      s.outWrite (accByte s.acc s.accN) fun t => t.setAcc (accDrop s.acc s.accN 8) (s.accN - 8) := by
  simp [State.writeStep, h]

theorem writeStep_byte {b : Byte} {rest : List Item} (h : s.accN < 8) (hi : o.items = .byte b :: rest) :
    s.writeStep o = s.outWrite b fun t => t.setPos (.writing { o with items := rest }) := by
  simp [State.writeStep, Nat.not_le.2 h, hi]

theorem writeStep_flush_empty {rest : List Item} (h : s.accN = 0) (hi : o.items = .flush :: rest) :
    s.writeStep o = (s.setAcc 0 0).setPos (.writing { o with items := rest }) := by
  simp [State.writeStep, h, hi]

theorem writeStep_flush {rest : List Item} (h : s.accN < 8) (h0 : s.accN ≠ 0) (hi : o.items = .flush :: rest) :
    s.writeStep o =
      s.outWrite (accFlush s.acc s.accN) fun t => (t.setAcc 0 0).setPos (.writing { o with items := rest }) := by
  simp [State.writeStep, Nat.not_le.2 h, h0, hi]

theorem writeStep_close (h : s.accN < 8) (hi : o.items = []) (hr : s.runBuf.length ≤ o.next)
    (hc : o.closed = false) :
    s.writeStep o = s.setPos (.writing { o with items := closingItems o.form, closed := true }) := by
  simp [State.writeStep, Nat.not_le.2 h, hi, hr, hc]

theorem writeStep_complete (h : s.accN < 8) (hi : o.items = []) (hr : s.runBuf.length ≤ o.next)
    (hc : o.closed = true) : s.writeStep o = s.complete o.upd := by
  simp [State.writeStep, Nat.not_le.2 h, hi, hr, hc]

end

/-! The packer's bytes in the arithmetic of R174. -/

theorem accByte_eq_ofNat (acc : BitVec 23) (n : Nat) : accByte acc n = BitVec.ofNat 8 (acc.toNat / 2 ^ (n - 8)) := by
  apply BitVec.eq_of_toNat_eq
  simp [accByte, Nat.shiftRight_eq_div_pow]

theorem accDrop_eq_ofNat (acc : BitVec 23) (n w : Nat) :
    accDrop acc n w = BitVec.ofNat 23 (acc.toNat % 2 ^ (n - w)) := by
  rw [← Nat.and_two_pow_sub_one_eq_mod, BitVec.ofNat_and, BitVec.ofNat_toNat, BitVec.setWidth_eq]
  rfl

theorem accFlush_eq_ofNat (acc : BitVec 23) (n : Nat) :
    accFlush acc n = BitVec.ofNat 8 (acc.toNat * 2 ^ (8 - n)) := by
  apply BitVec.eq_of_toNat_eq
  rw [accFlush, BitVec.toNat_setWidth, BitVec.toNat_shiftLeft, Nat.shiftLeft_eq, BitVec.toNat_ofNat,
    Nat.mod_mod_of_dvd _ (Nat.pow_dvd_pow 2 (by decide))]

/-- Settles O21: an `OutWrite` of each of the three bytes, and the flush of an empty accumulator. -/
theorem outWriteAppendsOrWaits : Obligations.OutWriteAppendsOrWaits := by
  refine ⟨fun i s o b rest he hp hn hi => ?_, fun i s o he hp hn => ?_, fun i s o rest he hp hn hi => ?_⟩ <;>
    rw [exec_of_writing i he hp]
  · rw [writeStep_byte hn hi]
    exact ⟨fun hfull => by rw [outWrite_full hfull], fun hroom => by rw [outWrite_room hroom]; rfl⟩
  · rw [writeStep_emit hn, accByte_eq_ofNat, accDrop_eq_ofNat]
    exact ⟨fun hfull => by rw [outWrite_full hfull], fun hroom => by rw [outWrite_room hroom]; rfl⟩
  · refine ⟨fun h0 => ?_, fun h0 hfull => ?_, fun h0 hroom => ?_⟩
    · rw [writeStep_flush_empty h0 hi, ← h0]
      rfl
    · rw [writeStep_flush hn h0 hi, outWrite_full hfull]
    · rw [writeStep_flush hn h0 hi, outWrite_room hroom, accFlush_eq_ofNat]
      rfl

/-- Settles O9. -/
theorem completionIsOneStep : Obligations.CompletionIsOneStep := by
  intro i s o he hp hn hi hr hc
  rw [exec_of_writing i he hp, writeStep_complete hn hi hr hc]
  rfl

/-! ### NOP (R131) -/

theorem execSteps_succ {i : Instr} {s t : State} (h : exec i s = .next t) (n : Nat) :
    execSteps i (n + 1) s = execSteps i n t := by
  simp [execSteps, h]

/-- A plan that writes nothing and only completes with `u`. -/
def silentPlan (u : Updates) : Plan := { runs := [], lead := [], form := .nothing, upd := u }

/-- The output phase's position under `silentPlan u`, before and after the closing items are taken up. -/
def silentOutput (closed : Bool) (u : Updates) : Output :=
  { items := [], form := .nothing, next := 0, closed := closed, upd := u }

theorem writeStep_silentPlan_close (s : State) (u : Updates) :
    (s.enterOutput (silentPlan u)).writeStep (silentOutput false u) =
      (s.enterOutput (silentPlan u)).setPos (.writing (silentOutput true u)) :=
  writeStep_close (Nat.zero_lt_succ 7) rfl (Nat.le_refl 0) rfl

theorem writeStep_silentPlan_complete (s : State) (u : Updates) :
    ((s.enterOutput (silentPlan u)).setPos (.writing (silentOutput true u))).writeStep (silentOutput true u) =
      completedState s s.inq [] [] u := by
  rw [completedState, List.append_nil]
  exact writeStep_complete (Nat.zero_lt_succ 7) rfl (Nat.le_refl 0) rfl

/-- A command that has nothing to write takes one step to find that out; its next step is the completion. -/
theorem exec_silentPlan (i : Instr) (s : State) (u : Updates) :
    ∃ t, exec i (s.enterOutput (silentPlan u)) = .next t ∧ exec i t = .next (completedState s s.inq [] [] u) :=
  ⟨_, (exec_of_writing i rfl rfl).trans (congrArg _ (writeStep_silentPlan_close s u)),
    (exec_of_writing i rfl rfl).trans (congrArg _ (writeStep_silentPlan_complete s u))⟩

theorem emptyInput_start {s : State} (hp : s.pos = .start) (plan : Plan) :
    emptyInput plan s = .next (s.enterOutput plan) := by
  simp [emptyInput, hp]

/-- Settles O26: NOP enters the output phase with nothing to write. -/
theorem nopCompletes : Obligations.NopCompletes := by
  rintro s ⟨he, hp, -⟩
  have hstart : exec .nop s = .next (s.enterOutput nopPlan) :=
    (runCommand_of_input he _).trans (emptyInput_start hp nopPlan)
  obtain ⟨t, hclose, hcomplete⟩ := exec_silentPlan .nop s {}
  exact ⟨2, t, (execSteps_succ hstart 1).trans (execSteps_succ hclose 0), hcomplete⟩

/-! ### Illegal words, acceptance and abort (R121 to R123, R133) -/

theorem engineTurn_of_illegal {s : State} {r : Reject} (hb : s.eng.busy = true) (hf : s.fetch = .error r) :
    engineTurn s = .next (s.raise .illegalCommand) := by
  simp [engineTurn, hb, hf]

/-- Settles O5. -/
theorem illegalCommandEntersError : Obligations.IllegalCommandEntersError := by
  refine ⟨fun s r ht hb hd => ?_, fun s ts r ht hb hd => ?_⟩
  · rw [step_of_no_turns ht, engineTurn_of_illegal hb hd]
    rfl
  · rw [step_of_engine_turn ht, engineTurn_of_illegal (s := s.setTurns ts) hb hd]
    rfl

theorem writeCmd_of_idle {s : State} (h : s.eng = .idle) (v : Word) : s.writeCmd v = s.accept v := by
  simp [State.writeCmd, h]

/-- Settles O7. -/
theorem cmdWriteInIdleIsAcceptance : Obligations.CmdWriteInIdleIsAcceptance := by
  intro s v h
  calc writeAt s 0x08 v = .next (s.writeCmd v) := writeAt_eq s (by decide) (by decide) v
    _ = .next (s.accept v) := by rw [writeCmd_of_idle h]

theorem writeCtrl_of_abort (s : State) {v : Word} (h : v.getLsbD 1 = true) : s.writeCtrl v = s.abort := if_pos h

/-- Settles O12. -/
theorem abortInAnyState : Obligations.AbortInAnyState := by
  intro s v h
  calc writeAt s 0x04 v = .next (s.writeCtrl v) := writeAt_eq s (by decide) (by decide) v
    _ = .next s.abort := by rw [writeCtrl_of_abort s h]

/-! ### The host's ends of the FIFOs (R134, R135) -/

/-- R135: a read of OUT_DATA returns the head of OUT and removes it. -/
theorem readAt_outData (s : State) :
    readAt s 0x30 = .next { s with outq := s.outq.tail, reads := s.reads ++ [outDataWord s.outq] } :=
  readAt_eq s (by decide) (by decide)

/-- Settles O16. -/
theorem outDataReadPopsOneByte : Obligations.OutDataReadPopsOneByte := by
  refine ⟨fun s b rest hq => ?_, fun s hq => ?_⟩
  · rw [readAt_outData, hq]
    rfl
  · have hstay : s.outq.tail = s.outq := by rw [hq, List.tail_nil]
    rw [readAt_outData, hstay, hq]
    rfl

theorem writeInData_of_error {s : State} (h : s.eng = .error) (v : Word) : s.writeInData v = s := by
  simp [State.writeInData, h]

theorem writeInData_of_ne_error {s : State} (h : s.eng ≠ .error) (v : Word) :
    s.writeInData v =
      if s.inEof ∨ s.inq.length = s.params.inDepth then s.overrun else s.setIn (s.inq ++ [v.setWidth 8]) := by
  unfold State.writeInData
  split
  · contradiction
  · rfl

/-- Settles O17. -/
theorem inDataWritePushesOrDrops : Obligations.InDataWritePushesOrDrops := by
  intro s v
  have hw : writeAt s 0x2C v = .next (s.writeInData v) := writeAt_eq s (by decide) (by decide) v
  rw [hw]
  by_cases he : s.eng = .error
  · rw [if_pos he, writeInData_of_error he]
  · rw [if_neg he, writeInData_of_ne_error he]
    rfl

end Sys2Proof.Machine

/-! ## Runs of a command's engine steps, from acceptance to completion (40_command_model.md R120, R126) -/

namespace Sys2Proof.Machine

open Sys2Proof

/-! ### Sequences of engine steps -/

/-- Engine steps of the command `i` lead from one state to the other. -/
def ExecReaches (i : Instr) : State → State → Prop := Relation.ReflTransGen fun s t => exec i s = .next t

/-- Engine steps of the command `i` lead from `s` to a state whose next step answers `v`. -/
def CompletesTo (i : Instr) (s v : State) : Prop := ∃ u, ExecReaches i s u ∧ exec i u = .next v

section

variable {i : Instr} {s t u v : State}

theorem ExecReaches.refl (s : State) : ExecReaches i s s := Relation.ReflTransGen.refl

theorem ExecReaches.head (h : exec i s = .next t) (htu : ExecReaches i t u) : ExecReaches i s u :=
  Relation.ReflTransGen.head h htu

theorem ExecReaches.trans (hst : ExecReaches i s t) (htu : ExecReaches i t u) : ExecReaches i s u :=
  Relation.ReflTransGen.trans hst htu

theorem ExecReaches.exists_execSteps (h : ExecReaches i s t) : ∃ n, execSteps i n s = .next t := by
  induction h using Relation.ReflTransGen.head_induction_on with
  | refl => exact ⟨0, rfl⟩
  | head hstep _ ih =>
    obtain ⟨n, hn⟩ := ih
    exact ⟨n + 1, (execSteps_succ hstep n).trans hn⟩

theorem CompletesTo.of_exec (h : exec i s = .next v) : CompletesTo i s v := ⟨s, .refl s, h⟩

theorem CompletesTo.of_reaches (hst : ExecReaches i s t) (h : CompletesTo i t v) : CompletesTo i s v := by
  obtain ⟨u, htu, hu⟩ := h
  exact ⟨u, hst.trans htu, hu⟩

theorem CompletesTo.head (hst : exec i s = .next t) (h : CompletesTo i t v) : CompletesTo i s v :=
  .of_reaches (.head hst (.refl t)) h

theorem CompletesTo.exists_execSteps (h : CompletesTo i s v) :
    ∃ n u, execSteps i n s = .next u ∧ exec i u = .next v := by
  obtain ⟨u, hsu, hu⟩ := h
  obtain ⟨n, hn⟩ := hsu.exists_execSteps
  exact ⟨n, u, hn, hu⟩

end

/-! ### The input phase of a command with a fixed amount of input (R124, R127) -/

theorem countedInput_start {s : State} (hp : s.pos = .start) (n : Nat) (short : ErrorCode)
    (content : List Byte → Except ErrorCode Plan) :
    countedInput none n short content s = .next (s.setPos (.bytes [])) := by
  simp [countedInput, hp]

theorem countedInput_full {s : State} {got : List Byte} {n : Nat} (hp : s.pos = .bytes got) (h : n ≤ got.length)
    (operands : Option ErrorCode) (short : ErrorCode) (content : List Byte → Except ErrorCode Plan) :
    countedInput operands n short content s = .next (s.conclude (content got)) := by
  simp [countedInput, hp, Nat.not_lt.2 h]

/-- `s` inside `InReadN`: the bytes `got` are read and `rest` is left in IN. -/
def State.reading (s : State) (rest got : List Byte) : State := (s.setIn rest).setPos (.bytes got)

/-- The operand check of the command `i` passes in `s`; its input phase reads `n` bytes, raises `short` where the input
ends before, and checks the bytes with `content`. -/
def ReadsThenChecks (i : Instr) (s : State) (n : Nat) (short : ErrorCode)
    (content : List Byte → Except ErrorCode Plan) : Prop :=
  ∀ rest pos, exec i ((s.setIn rest).setPos pos) = countedInput none n short content ((s.setIn rest).setPos pos)

section

variable {i : Instr} {s : State} {n : Nat} {short : ErrorCode} {content : List Byte → Except ErrorCode Plan}

theorem ReadsThenChecks.exec_start (hx : ReadsThenChecks i s n short content) (hp : s.pos = .start) :
    exec i s = .next (s.reading s.inq []) :=
  (hx s.inq s.pos).trans (countedInput_start hp n short content)

theorem ReadsThenChecks.exec_take (hx : ReadsThenChecks i s n short content) (b : Byte) (rest : List Byte)
    {got : List Byte} (h : got.length < n) :
    exec i (s.reading (b :: rest) got) = .next (s.reading rest (got ++ [b])) := by
  rw [State.reading, hx, countedInput_short rfl h, inRead_cons rfl]
  rfl

theorem ReadsThenChecks.exec_conclude (hx : ReadsThenChecks i s n short content) (rest : List Byte) {got : List Byte}
    (h : n ≤ got.length) {plan : Plan} (hc : content got = .ok plan) :
    exec i (s.reading rest got) = .next ((s.setIn rest).enterOutput plan) := by
  rw [State.reading, hx, countedInput_full rfl h, hc]
  rfl

/-- The engine takes the bytes of a counted input one by one while they are in IN. -/
theorem ReadsThenChecks.reaches_reading (hx : ReadsThenChecks i s n short content) (rest : List Byte) :
    ∀ bs got : List Byte, (got ++ bs).length ≤ n →
      ExecReaches i (s.reading (bs ++ rest) got) (s.reading rest (got ++ bs))
  | [], got, _ => by rw [List.append_nil]; exact .refl _
  | b :: bs, got, hn => by
    have hshort : got.length < n := by
      rw [List.length_append, List.length_cons] at hn
      omega
    rw [List.append_cons] at hn ⊢
    exact .head (hx.exec_take b (bs ++ rest) hshort) (hx.reaches_reading rest bs (got ++ [b]) hn)

/-- A counted command whose whole input is in IN and passes the content checks begins its output phase. -/
theorem ReadsThenChecks.reaches_enterOutput (hx : ReadsThenChecks i s n short content) (hp : s.pos = .start)
    {bs rest : List Byte} (hq : s.inq = bs ++ rest) (hn : bs.length = n) {plan : Plan} (hc : content bs = .ok plan) :
    ExecReaches i s ((s.setIn rest).enterOutput plan) := by
  have hstart := hx.exec_start hp
  rw [hq] at hstart
  exact .head hstart
    ((hx.reaches_reading rest bs [] hn.le).trans (.head (hx.exec_conclude rest hn.ge hc) (.refl _)))

end

/-! ### The output phase of the forms that write bytes (R125, R126) -/

/-- The form `f` writes the bytes `bytes r` for each run `r` and `closing` after the last one, without the packer. -/
structure WritesBytes (f : OutForm) (bytes : Run → List Byte) (closing : List Byte) : Prop where
  runItems_eq : ∀ r, runItems f r = (bytes r).map Item.byte
  closingItems_eq : closingItems f = closing.map Item.byte

/-- `s` in the output phase at position `o`, with the bytes `out` written since. -/
def State.wrote (s : State) (out : List Byte) (o : Output) : State :=
  { s with outq := s.outq ++ out, pos := .writing o }

section

variable {s : State} {o : Output}

theorem writeStep_run {r : Run} (h : s.accN < 8) (hi : o.items = []) (hr : s.runBuf[o.next]? = some r) :
    s.writeStep o = s.setPos (.writing { o with items := runItems o.form r, next := o.next + 1 }) := by
  simp [State.writeStep, Nat.not_le.2 h, hi, hr]

variable {i : Instr} {out : List Byte}

theorem exec_wrote (he : s.eng = .busyOutput) :
    exec i (s.wrote out o) = .next ((s.wrote out o).writeStep o) :=
  exec_of_writing (s := s.wrote out o) i he rfl

theorem exec_wrote_byte {b : Byte} {items : List Item} (he : s.eng = .busyOutput) (hn : s.accN < 8)
    (hroom : (s.outq ++ out).length < s.params.outDepth) (hi : o.items = .byte b :: items) :
    exec i (s.wrote out o) = .next (s.wrote (out ++ [b]) { o with items := items }) := by
  rw [exec_wrote he, writeStep_byte (s := s.wrote out o) hn hi, outWrite_room (s := s.wrote out o) hroom,
    State.wrote, State.wrote, ← List.append_assoc]
  rfl

theorem exec_wrote_run {r : Run} (he : s.eng = .busyOutput) (hn : s.accN < 8) (hi : o.items = [])
    (hr : s.runBuf[o.next]? = some r) :
    exec i (s.wrote out o) =
      .next (s.wrote out { o with items := runItems o.form r, next := o.next + 1 }) := by
  rw [exec_wrote he, writeStep_run (s := s.wrote out o) hn hi hr]
  rfl

theorem exec_wrote_close (he : s.eng = .busyOutput) (hn : s.accN < 8) (hi : o.items = [])
    (hr : s.runBuf.length ≤ o.next) (hc : o.closed = false) :
    exec i (s.wrote out o) = .next (s.wrote out { o with items := closingItems o.form, closed := true }) := by
  rw [exec_wrote he, writeStep_close (s := s.wrote out o) hn hi hr hc]
  rfl

theorem exec_wrote_complete (he : s.eng = .busyOutput) (hn : s.accN < 8) (hi : o.items = [])
    (hr : s.runBuf.length ≤ o.next) (hc : o.closed = true) :
    exec i (s.wrote out o) = .next ((s.wrote out o).complete o.upd) := by
  rw [exec_wrote he, writeStep_complete (s := s.wrote out o) hn hi hr hc]

/-- Where OUT has room for them, the bytes of the current items are written one after another. -/
theorem reaches_wrote_bytes (he : s.eng = .busyOutput) (hn : s.accN < 8) (o : Output) :
    ∀ bs out : List Byte, (s.outq ++ (out ++ bs)).length ≤ s.params.outDepth →
      ExecReaches i (s.wrote out { o with items := bs.map Item.byte }) (s.wrote (out ++ bs) { o with items := [] })
  | [], out, _ => by rw [List.append_nil]; exact .refl _
  | b :: bs, out, hroom => by
    have hfirst : (s.outq ++ out).length < s.params.outDepth := by
      simp only [List.length_append, List.length_cons] at hroom ⊢
      omega
    rw [List.append_cons] at hroom ⊢
    exact .head (exec_wrote_byte he hn hfirst rfl) (reaches_wrote_bytes he hn o bs (out ++ [b]) hroom)

/-- From between two runs, the output phase writes the runs that are left, then the closing bytes, and completes. -/
theorem completesTo_wrote_runs {bytes : Run → List Byte} {closing : List Byte} (he : s.eng = .busyOutput)
    (hn : s.accN < 8) (hf : WritesBytes o.form bytes closing) (hi : o.items = []) (hc : o.closed = false)
    {runs : List Run} (hruns : s.runBuf.drop o.next = runs)
    (hroom : (s.outq ++ (out ++ (runs.flatMap bytes ++ closing))).length ≤ s.params.outDepth) :
    CompletesTo i (s.wrote out o) ((s.wrote (out ++ (runs.flatMap bytes ++ closing)) o).complete o.upd) := by
  induction runs generalizing o out with
  | nil =>
    have hend : s.runBuf.length ≤ o.next := List.drop_eq_nil_iff.1 hruns
    have hclose := exec_wrote_close (i := i) (out := out) he hn hi hend hc
    rw [hf.closingItems_eq] at hclose
    exact .head hclose (.of_reaches (reaches_wrote_bytes he hn { o with closed := true } closing out hroom)
      (.of_exec (exec_wrote_complete (o := { o with items := [], closed := true }) he hn rfl hend rfl)))
  | cons r runs ih =>
    have hr : s.runBuf[o.next]? = some r := by rw [← List.head?_drop, hruns]; rfl
    have hrest : s.runBuf.drop (o.next + 1) = runs := by rw [← List.tail_drop, hruns]; rfl
    have htake := exec_wrote_run (i := i) (out := out) he hn hi hr
    rw [hf.runItems_eq] at htake
    rw [List.flatMap_cons, List.append_assoc, ← List.append_assoc out] at hroom ⊢
    have hbytes : (s.outq ++ (out ++ bytes r)).length ≤ s.params.outDepth := by
      simp only [List.length_append] at hroom ⊢
      omega
    exact .head htake (.of_reaches (reaches_wrote_bytes he hn { o with next := o.next + 1 } (bytes r) out hbytes)
      (ih (o := { o with items := [], next := o.next + 1 }) hf rfl hc hrest hroom))

end

/-- The position at which the output phase of a plan begins. -/
def Plan.output (p : Plan) : Output :=
  { items := p.lead.map Item.byte, form := p.form, next := 0, closed := false, upd := p.upd }

theorem enterOutput_eq_wrote (s : State) (p : Plan) : s.enterOutput p = (s.enterOutput p).wrote [] p.output := by
  rw [State.wrote, List.append_nil]
  rfl

/-- R126, R128: the output phase of a plan without packed fields writes the leading bytes, the runs and the closing
bytes, and completes. -/
theorem completesTo_enterOutput {i : Instr} {s : State} {plan : Plan} {bytes : Run → List Byte} {closing : List Byte}
    (hf : WritesBytes plan.form bytes closing)
    (hroom : (s.outq ++ (plan.lead ++ (plan.runs.flatMap bytes ++ closing))).length ≤ s.params.outDepth) :
    CompletesTo i (s.enterOutput plan)
      (completedState s s.inq (plan.lead ++ (plan.runs.flatMap bytes ++ closing)) plan.runs plan.upd) := by
  have hlead : (s.outq ++ plan.lead).length ≤ s.params.outDepth := by
    simp only [List.length_append] at hroom ⊢
    omega
  rw [enterOutput_eq_wrote]
  exact .of_reaches (reaches_wrote_bytes rfl (Nat.zero_lt_succ 7) plan.output plan.lead [] hlead)
    (completesTo_wrote_runs rfl (Nat.zero_lt_succ 7) hf rfl rfl rfl hroom)

/-- R127: a counted command whose input is complete and correct consumes exactly that input and writes the bytes of its
plan. -/
theorem ReadsThenChecks.completes {i : Instr} {s : State} {n : Nat} {short : ErrorCode}
    {content : List Byte → Except ErrorCode Plan} (hx : ReadsThenChecks i s n short content) (hp : s.pos = .start)
    {bs rest : List Byte} (hq : s.inq = bs ++ rest) (hn : bs.length = n) {plan : Plan} (hc : content bs = .ok plan)
    {bytes : Run → List Byte} {closing out : List Byte} (hf : WritesBytes plan.form bytes closing)
    (hout : out = plan.lead ++ (plan.runs.flatMap bytes ++ closing))
    (hroom : s.outq.length + out.length ≤ s.params.outDepth) :
    ∃ k u, execSteps i k s = .next u ∧ exec i u = .next (completedState s rest out plan.runs plan.upd) := by
  subst hout
  have hdone := completesTo_enterOutput (i := i) (s := s.setIn rest) hf (by rwa [List.length_append])
  exact (CompletesTo.of_reaches (hx.reaches_enterOutput hp hq hn hc) hdone).exists_execSteps

end Sys2Proof.Machine

/-! ## The run-length transform (41_run_length.md) -/

namespace Sys2Proof.Machine

open Sys2Proof

/-! ### Decoding undoes encoding (R150, R151, R157) -/

theorem rleExpand_cons (r : Half × Nat) (runs : List (Half × Nat)) :
    rleExpand (r :: runs) = List.replicate r.2 r.1 ++ rleExpand runs := rfl

theorem rleExpand_length (runs : List (Half × Nat)) : (rleExpand runs).length = (runs.map fun r => r.2).sum := by
  simp [rleExpand, List.length_flatMap]

theorem rleExpand_rleScan (cur : Half) (len : Nat) (xs : List Half) :
    rleExpand (rleScan cur len xs) = List.replicate len cur ++ xs := by
  induction xs generalizing cur len with
  | nil => simp [rleScan, rleExpand]
  | cons x xs ih =>
    by_cases h : x = cur
    · rw [rleScan, if_pos h, ih, h, List.replicate_succ', List.append_assoc, List.singleton_append]
    · rw [rleScan, if_neg h, rleExpand_cons, ih]
      rfl

theorem rleExpand_rleEncode (xs : List Half) : rleExpand (rleEncode xs) = xs := by
  cases xs with
  | nil => rfl
  | cons x xs => exact rleExpand_rleScan x 1 xs

/-- The first run of a scan is the open one, however long it gets. -/
theorem rleScan_eq_cons (cur : Half) (len : Nat) (xs : List Half) :
    ∃ k runs, rleScan cur len xs = (cur, k) :: runs := by
  induction xs generalizing len with
  | nil => exact ⟨len, [], rfl⟩
  | cons x xs ih =>
    unfold rleScan
    split
    · exact ih (len + 1)
    · exact ⟨len, _, rfl⟩

theorem isChain_rleScan (cur : Half) (len : Nat) (xs : List Half) :
    (rleScan cur len xs).IsChain fun a b => a.1 ≠ b.1 := by
  induction xs generalizing cur len with
  | nil => exact List.isChain_singleton _
  | cons x xs ih =>
    unfold rleScan
    split
    · exact ih cur (len + 1)
    next hne =>
      have hrest := ih x 1
      obtain ⟨k, runs, hscan⟩ := rleScan_eq_cons x 1 xs
      rw [hscan] at hrest ⊢
      exact List.isChain_cons_cons.2 ⟨Ne.symm hne, hrest⟩

/-- R157: the runs of `rle_encode` are maximal. -/
theorem isChain_rleEncode (xs : List Half) : (rleEncode xs).IsChain fun a b => a.1 ≠ b.1 := by
  cases xs with
  | nil => exact List.isChain_nil
  | cons x xs => exact isChain_rleScan x 1 xs

/-- Settles O55: each part follows the open run through the scan; the sum of the lengths is the length of what the runs
expand to. -/
theorem rleDecodeUndoesEncode : Obligations.RleDecodeUndoesEncode := by
  intro xs
  refine ⟨rleExpand_rleEncode xs, fun k a b ha hb => ?_, rleEncode_length_pos xs, ?_⟩
  · obtain ⟨hk, rfl⟩ := List.getElem?_eq_some_iff.1 ha
    obtain ⟨hk', rfl⟩ := List.getElem?_eq_some_iff.1 hb
    exact (isChain_rleEncode xs).getElem k hk'
  · rw [← rleExpand_length, rleExpand_rleEncode]

/-! ### RLE_ENC (R153, R155) -/

theorem runsFromLabels_flatMap {depth : Nat} {xs : List Half} (hlen : ∀ r ∈ rleEncode xs, r.2 ≤ 65535)
    (hdepth : (rleEncode xs).length ≤ depth) :
    runsFromLabels depth (xs.flatMap labelBytes) = .ok ((rleEncode xs).map toRun) := by
  have hshort : ((rleEncode xs).any fun r => decide (65535 < r.2)) = false :=
    List.any_eq_false.2 fun r hr => by simpa using hlen r hr
  simp [runsFromLabels, labelsOf_flatMap, hshort, Nat.not_lt.2 hdepth]

theorem writesBytes_records : WritesBytes .records recBytes [] := ⟨fun _ => rfl, rfl⟩

theorem rleEncContent_flatMap (l : Latch) {depth : Nat} {xs : List Half} (hlen : ∀ r ∈ rleEncode xs, r.2 ≤ 65535)
    (hdepth : (rleEncode xs).length ≤ depth) :
    rleEncContent l depth (xs.flatMap labelBytes) =
      .ok
        { runs := (rleEncode xs).map toRun, lead := [], form := .records,
          upd := { runCount := some (countWord (rleEncode xs).length), labelCount := some l.count } } := by
  simp [rleEncContent, runsFromLabels_flatMap hlen hdepth]

theorem readsThenChecks_rleEnc {s : State} (he : s.eng = .busyInput) :
    ReadsThenChecks .rleEnc s s.latch.labelInput .truncatedStream (rleEncContent s.latch s.params.runBufDepth) :=
  fun rest pos => runCommand_of_input (s := (s.setIn rest).setPos pos) he _

/-- Settles O30: the labels in IN are the counted input, and the plan of `rleEncContent` writes run records. -/
theorem rleEncWritesTheRunRecords : Obligations.RleEncWritesTheRunRecords := by
  rintro s xs rest ⟨he, hp, -⟩ hcount hq hlen hdepth hroom
  refine (readsThenChecks_rleEnc he).completes hp hq ?_ (rleEncContent_flatMap s.latch hlen hdepth)
    writesBytes_records ?_ ?_
  · rw [flatMap_labelBytes_length, Latch.labelInput, hcount]
  · exact (List.append_nil _).symm
  · rwa [flatMap_recBytes_length, List.length_map]

/-! ### RLE_DEC (R154, R156) -/

/-- The bytes of the labels a run expands to (R84, R151). -/
def runLabelBytes (r : Run) : List Byte := (List.replicate r.length.toNat r.value).flatMap labelBytes

theorem writesBytes_labels : WritesBytes .labels runLabelBytes [] :=
  ⟨fun r => by rw [runItems, runLabelBytes, List.flatMap_def, List.map_replicate], rfl⟩

theorem flatMap_runLabelBytes (runs : List Run) :
    runs.flatMap runLabelBytes = (rleDecode runs).flatMap labelBytes := by
  rw [rleDecode, List.flatMap_assoc]
  rfl

theorem rleDecode_length (runs : List Run) : (rleDecode runs).length = totalLength runs := by
  simp [rleDecode, totalLength, List.length_flatMap]

theorem rleDecContent_flatMap (l : Latch) {runs : List Run} (hlen : ∀ r ∈ runs, r.length ≠ 0)
    (htotal : totalLength runs ≤ maxWord) :
    rleDecContent l (runs.flatMap recBytes) =
      .ok
        { runs := runs, lead := [], form := .labels,
          upd := { runCount := some l.count, labelCount := some (countWord (totalLength runs)) } } := by
  have hzero : hasZeroLength runs = false := List.any_eq_false.2 fun r hr => by simpa using hlen r hr
  simp [rleDecContent, recordsOf_flatMap, hzero, Nat.not_lt.2 htotal]

theorem checkCount_of_le {l : Latch} {depth : Nat} (h : l.count.toNat ≤ depth) : checkCount l depth = none :=
  if_neg (Nat.not_lt.2 h)

theorem readsThenChecks_rleDec {s : State} (he : s.eng = .busyInput)
    (hdepth : s.latch.count.toNat ≤ s.params.runBufDepth) :
    ReadsThenChecks .rleDec s s.latch.recordInput .truncatedStream (rleDecContent s.latch) := by
  intro rest pos
  rw [← checkCount_of_le hdepth]
  exact runCommand_of_input (s := (s.setIn rest).setPos pos) he _

/-- Settles O31: the run records in IN are the counted input, and the plan of `rleDecContent` writes labels. -/
theorem rleDecWritesTheLabels : Obligations.RleDecWritesTheLabels := by
  rintro s runs rest ⟨he, hp, -⟩ hcount hq hdepth hlen htotal hroom
  refine (readsThenChecks_rleDec he (hcount.trans_le hdepth)).completes hp hq ?_
    (rleDecContent_flatMap s.latch hlen htotal) writesBytes_labels ?_ ?_
  · rw [flatMap_recBytes_length, Latch.recordInput, hcount]
  · rw [flatMap_runLabelBytes, List.append_nil]
    rfl
  · rwa [flatMap_labelBytes_length, rleDecode_length]

end Sys2Proof.Machine

/-! ## Bit strings, payload bytes and the accumulator (42_bit_packer.md R173, R174, R176) -/

namespace Sys2Proof.Machine

open Sys2Proof

/-! ### The number a bit string spells (R11) -/

/-- Bits that follow those of `a` shift it. -/
theorem foldl_eq_add_valOf (T : List Bool) (a : Nat) :
    T.foldl (fun n b => 2 * n + b.toNat) a = a * 2 ^ T.length + valOf T := by
  induction T generalizing a with
  | nil => simp [valOf]
  | cons b T ih =>
    rw [valOf, List.foldl_cons, List.foldl_cons, ih (2 * a + b.toNat), ih (2 * 0 + b.toNat), List.length_cons]
    ring

theorem valOf_append (S T : List Bool) : valOf (S ++ T) = valOf S * 2 ^ T.length + valOf T := by
  rw [valOf, List.foldl_append, foldl_eq_add_valOf]
  rfl

theorem valOf_cons (b : Bool) (S : List Bool) : valOf (b :: S) = b.toNat * 2 ^ S.length + valOf S := by
  rw [← List.singleton_append, valOf_append]
  simp [valOf]

theorem valOf_lt (S : List Bool) : valOf S < 2 ^ S.length := by
  induction S with
  | nil => decide
  | cons b S ih =>
    rw [valOf_cons, List.length_cons, Nat.pow_succ]
    have hb : b.toNat * 2 ^ S.length ≤ 1 * 2 ^ S.length := Nat.mul_le_mul_right _ (Bool.toNat_le b)
    omega

theorem valOf_eq_zero_iff (S : List Bool) : valOf S = 0 ↔ S.any id = false := by
  induction S with
  | nil => decide
  | cons b S ih =>
    rw [valOf_cons, Nat.add_eq_zero_iff, ih]
    cases b <;> simp

theorem valOf_take {S : List Bool} {w : Nat} : valOf (S.take w) = valOf S / 2 ^ (S.length - w) := by
  have h := valOf_append (S.take w) (S.drop w)
  have hlt := valOf_lt (S.drop w)
  rw [List.take_append_drop, List.length_drop] at h
  rw [List.length_drop] at hlt
  rw [h, Nat.mul_comm, Nat.mul_add_div (Nat.two_pow_pos _), Nat.div_eq_of_lt hlt, Nat.add_zero]

theorem valOf_drop {S : List Bool} {w : Nat} : valOf (S.drop w) = valOf S % 2 ^ (S.length - w) := by
  have h := valOf_append (S.take w) (S.drop w)
  have hlt := valOf_lt (S.drop w)
  rw [List.take_append_drop, List.length_drop] at h
  rw [List.length_drop] at hlt
  rw [h, Nat.mul_comm, Nat.mul_add_mod, Nat.mod_eq_of_lt hlt]

theorem valOf_zeros (k : Nat) : valOf (List.replicate k false) = 0 := by
  rw [valOf_eq_zero_iff, List.any_replicate]
  simp

/-! ### The bits of a number (R11) -/

theorem bitsOf_congr {w x y : Nat} (h : ∀ k < w, x.testBit k = y.testBit k) : bitsOf w x = bitsOf w y := by
  induction w with
  | zero => rfl
  | succ w ih => rw [bitsOf, bitsOf, h w (Nat.lt_succ_self w), ih fun k hk => h k (Nat.lt_succ_of_lt hk)]

/-- `bits_w(val(S)) = S` (R11). -/
theorem bitsOf_valOf (S : List Bool) : bitsOf S.length (valOf S) = S := by
  induction S with
  | nil => rfl
  | cons b S ih =>
    have hlow : bitsOf S.length (valOf (b :: S)) = bitsOf S.length (valOf S) := by
      refine bitsOf_congr fun k hk => ?_
      rw [valOf_cons, Nat.mul_comm, Nat.testBit_two_pow_mul_add _ (valOf_lt S), if_pos hk]
    have htop : (valOf (b :: S)).testBit S.length = b := by
      rw [valOf_cons, Nat.mul_comm, Nat.testBit_two_pow_mul_add _ (valOf_lt S), if_neg (Nat.lt_irrefl _), Nat.sub_self]
      cases b <;> rfl
    rw [List.length_cons, bitsOf, htop, hlow, ih]

/-! ### Bytes of a bit string (R11, R173) -/

/-- The byte that eight bits spell. -/
def byteOf (S : List Bool) : Byte := BitVec.ofNat 8 (valOf S)

theorem bitsOf_byteOf {F : List Bool} (h : F.length = 8) : bitsOf 8 (byteOf F).toNat = F := by
  have hlt := valOf_lt F
  rw [h] at hlt
  rw [byteOf, BitVec.toNat_ofNat, Nat.mod_eq_of_lt hlt]
  conv_rhs => rw [← bitsOf_valOf F, h]

theorem bytesOf_append {F : List Bool} (h : F.length = 8) (S : List Bool) :
    bytesOf (F ++ S) = byteOf F :: bytesOf S := by
  match F, h with
  | [a, b, c, d, e, f, g, h], _ => rfl

/-- R173: a partial last byte is padded with zeros in its low bits. -/
theorem bytesOf_of_short {S : List Bool} (h0 : S ≠ []) (h : S.length < 8) :
    bytesOf S = [byteOf (S ++ List.replicate (8 - S.length) false)] := by
  unfold bytesOf
  split
  · simp only [List.length_cons] at h
    omega
  · exact absurd rfl h0
  · rfl

theorem bitString_cons (b : Byte) (P : List Byte) : bitString (b :: P) = bitsOf 8 b.toNat ++ bitString P := rfl

theorem ceilDiv_eight_add (n : Nat) : ceilDiv (8 + n) 8 = ceilDiv n 8 + 1 := by
  unfold ceilDiv
  omega

/-- Eight bits make one byte, and the bits of a partial byte make the last one: the recursion of `bytesOf`. -/
theorem bytesOf_induction {motive : List Bool → Prop} (nil : motive [])
    (short : ∀ S : List Bool, S ≠ [] → S.length < 8 → motive S)
    (byte : ∀ F S : List Bool, F.length = 8 → motive S → motive (F ++ S)) (S : List Bool) : motive S := by
  by_cases h0 : S = []
  · exact h0 ▸ nil
  · by_cases h : S.length < 8
    · exact short S h0 h
    · rw [← List.take_append_drop 8 S]
      exact byte _ _ (List.length_take_of_le (Nat.le_of_not_lt h)) (bytesOf_induction nil short byte (S.drop 8))
  termination_by S.length
  decreasing_by
    rw [List.length_drop]
    omega

theorem bytesOf_length (S : List Bool) : (bytesOf S).length = ceilDiv S.length 8 := by
  induction S using bytesOf_induction with
  | nil => rfl
  | short S h0 h =>
    have hpos : 0 < S.length := List.length_pos_iff.2 h0
    rw [bytesOf_of_short h0 h, List.length_singleton, ceilDiv]
    omega
  | byte F S hF ih => rw [bytesOf_append hF, List.length_cons, ih, List.length_append, hF, ceilDiv_eight_add]

/-- R173: the bits of the bytes of `S` are `S` and the padding of the last byte. -/
theorem bitString_bytesOf (S : List Bool) :
    bitString (bytesOf S) = S ++ List.replicate (8 * ceilDiv S.length 8 - S.length) false := by
  induction S using bytesOf_induction with
  | nil => rfl
  | short S h0 h =>
    have hpos : 0 < S.length := List.length_pos_iff.2 h0
    have hceil : ceilDiv S.length 8 = 1 := by
      unfold ceilDiv
      omega
    rw [bytesOf_of_short h0 h, bitString_cons, bitsOf_byteOf (by simp; omega), hceil]
    exact List.append_nil _
  | byte F S hF ih =>
    have hpad : 8 * ceilDiv (F ++ S).length 8 - (F ++ S).length = 8 * ceilDiv S.length 8 - S.length := by
      rw [List.length_append, hF, ceilDiv_eight_add]
      omega
    rw [bytesOf_append hF, bitString_cons, bitsOf_byteOf hF, ih, hpad, List.append_assoc]

/-! ### Packed runs (R172, R173) -/

theorem packBits_cons (vb lb : Nat) (r : Run) (runs : List Run) :
    packBits vb lb (r :: runs) = bitsOf vb r.value.toNat ++ (bitsOf lb r.length.toNat ++ packBits vb lb runs) :=
  List.append_assoc _ _ _

/-- R172: the payload length. -/
theorem pack_length (runs : List Run) (vb lb : Nat) : (pack runs vb lb).length = byteLen runs.length vb lb := by
  rw [pack, bytesOf_length, packBits_length, byteLen]

/-- R180, law 3: the padding is less than a byte. -/
theorem padding_lt (n vb lb : Nat) : 8 * byteLen n vb lb - n * (vb + lb) < 8 := by
  unfold byteLen ceilDiv
  omega

theorem bitString_pack (runs : List Run) (vb lb : Nat) :
    bitString (pack runs vb lb) =
      packBits vb lb runs ++ List.replicate (8 * byteLen runs.length vb lb - runs.length * (vb + lb)) false := by
  rw [pack, bitString_bytesOf, packBits_length, byteLen]

/-! ### The accumulator as the bits it holds (R44) -/

/-- ACC when it holds the bits `S`, oldest first; ACC_N is their number. -/
def accOf (S : List Bool) : BitVec 23 := BitVec.ofNat 23 (valOf S)

section

variable {S : List Bool}

theorem accOf_toNat (h : S.length ≤ 23) : (accOf S).toNat = valOf S := by
  rw [accOf, BitVec.toNat_ofNat]
  exact Nat.mod_eq_of_lt ((valOf_lt S).trans_le (Nat.pow_le_pow_right (by decide) h))

/-- Shifting in a field appends its bits (R174, R179). -/
theorem accOf_shiftIn {k w : Nat} {x : BitVec k} (hx : x.toNat < 2 ^ w) (h : S.length + w ≤ 23) :
    (accOf S <<< w) ||| x.setWidth 23 = accOf (S ++ bitsOf w x.toNat) := by
  have hS : S.length ≤ 23 := by omega
  have hlen : (S ++ bitsOf w x.toNat).length ≤ 23 := by rwa [List.length_append, bitsOf_length]
  have hval := valOf_append S (bitsOf w x.toNat)
  rw [valOf_bitsOf w _ hx, bitsOf_length] at hval
  have hfit : valOf S * 2 ^ w + x.toNat < 2 ^ 23 := by
    rw [← hval]
    exact (valOf_lt _).trans_le (Nat.pow_le_pow_right (by decide) hlen)
  apply BitVec.eq_of_toNat_eq
  rw [BitVec.toNat_or, BitVec.toNat_shiftLeft, BitVec.toNat_setWidth, accOf_toNat hS, accOf_toNat hlen, hval,
    Nat.shiftLeft_eq, Nat.mod_eq_of_lt (show x.toNat < 2 ^ 23 by omega),
    Nat.mod_eq_of_lt (show valOf S * 2 ^ w < 2 ^ 23 by omega), ← Nat.shiftLeft_eq,
    Nat.shiftLeft_add_eq_or_of_lt hx]

/-- The oldest `w` bits are the first ones. -/
theorem accOf_top (k : Nat) {w : Nat} (h : S.length ≤ 23) :
    (accOf S >>> (S.length - w)).setWidth k = BitVec.ofNat k (valOf (S.take w)) := by
  apply BitVec.eq_of_toNat_eq
  rw [BitVec.toNat_setWidth, BitVec.toNat_ushiftRight, accOf_toNat h, Nat.shiftRight_eq_div_pow, valOf_take,
    BitVec.toNat_ofNat]

theorem accTop_accOf {w : Nat} (h : S.length ≤ 23) :
    accTop (accOf S) S.length w = BitVec.ofNat 16 (valOf (S.take w)) := accOf_top 16 h

theorem accByte_accOf (h : S.length ≤ 23) : accByte (accOf S) S.length = byteOf (S.take 8) := accOf_top 8 h

theorem accDrop_accOf {w : Nat} (h : S.length ≤ 23) : accDrop (accOf S) S.length w = accOf (S.drop w) := by
  have hdrop : (S.drop w).length ≤ 23 := by
    rw [List.length_drop]
    omega
  have hpow : 2 ^ (S.length - w) ≤ 2 ^ 23 := Nat.pow_le_pow_right (by decide) (by omega)
  have hpos := Nat.two_pow_pos (S.length - w)
  apply BitVec.eq_of_toNat_eq
  rw [accDrop, lowMask, BitVec.toNat_and, BitVec.toNat_ofNat, accOf_toNat h, accOf_toNat hdrop, valOf_drop,
    Nat.mod_eq_of_lt (show 2 ^ (S.length - w) - 1 < 2 ^ 23 by omega), Nat.and_two_pow_sub_one_eq_mod]

/-- The flush gives the last byte of the bits held (R174). -/
theorem bytesOf_accFlush (h0 : S ≠ []) (h : S.length < 8) : bytesOf S = [accFlush (accOf S) S.length] := by
  have hfit : valOf S * 2 ^ (8 - S.length) < 2 ^ 23 := by
    calc valOf S * 2 ^ (8 - S.length)
      _ < 2 ^ S.length * 2 ^ (8 - S.length) := Nat.mul_lt_mul_of_pos_right (valOf_lt S) (Nat.two_pow_pos _)
      _ = 2 ^ 8 := by rw [← Nat.pow_add, Nat.add_sub_cancel' h.le]
      _ ≤ 2 ^ 23 := by decide
  rw [bytesOf_of_short h0 h, List.cons.injEq]
  refine ⟨BitVec.eq_of_toNat_eq ?_, rfl⟩
  rw [byteOf, accFlush, BitVec.toNat_setWidth, BitVec.toNat_shiftLeft, accOf_toNat (by omega), BitVec.toNat_ofNat,
    valOf_append, valOf_zeros, List.length_replicate, Nat.add_zero, Nat.shiftLeft_eq, Nat.mod_eq_of_lt hfit]

end

end Sys2Proof.Machine

/-! ## Reading runs back from a payload (42_bit_packer.md R176 to R178, R180) -/

namespace Sys2Proof.Machine

open Sys2Proof

/-! ### The parser on a bit string (R176) -/

/-- What `parsePairs` does with the bits `S`: the runs, and the bits after the stop position. -/
def parseBits (vb lb : Nat) (S : List Bool) : List Run × List Bool := parseLoop vb lb S.length S

/-- The run that the value bits `F` and the length bits `G` spell (R176). -/
def runOf (F G : List Bool) : Run := ⟨BitVec.ofNat 16 (valOf F), BitVec.ofNat 16 (valOf G)⟩

theorem parsePairs_eq (P : List Byte) (vb lb : Nat) : parsePairs P vb lb = parseBits vb lb (bitString P) := rfl

section

variable {vb lb : Nat}

theorem parseLoop_of_short {n : Nat} {S : List Bool} (h : S.length < vb + lb) : parseLoop vb lb n S = ([], S) := by
  cases n with
  | zero => rfl
  | succ n => rw [parseLoop, if_pos h]

theorem parseLoop_of_zero_length {n : Nat} {F G S : List Bool} (hF : F.length = vb) (hG : G.length = lb)
    (h0 : valOf G = 0) : parseLoop vb lb n (F ++ (G ++ S)) = ([], F ++ (G ++ S)) := by
  subst hF hG
  cases n with
  | zero => rfl
  | succ n => simp [parseLoop, h0]

theorem parseLoop_of_run {n : Nat} {F G S : List Bool} (hF : F.length = vb) (hG : G.length = lb) (h0 : valOf G ≠ 0) :
    parseLoop vb lb (n + 1) (F ++ (G ++ S)) =
      (runOf F G :: (parseLoop vb lb n S).1, (parseLoop vb lb n S).2) := by
  subst hF hG
  have hlen : ¬ (F ++ (G ++ S)).length < F.length + G.length := by
    simp only [List.length_append]
    omega
  have hrest : (F ++ (G ++ S)).drop (F.length + G.length) = S := by
    rw [← List.append_assoc, ← List.length_append, List.drop_left]
  rw [parseLoop, if_neg hlen, hrest, List.drop_left, List.take_left, List.take_left, if_neg h0]
  rfl

/-- The fields of the next pair. -/
theorem exists_fields {S : List Bool} (h : vb + lb ≤ S.length) :
    ∃ F G T : List Bool, F.length = vb ∧ G.length = lb ∧ S = F ++ (G ++ T) := by
  refine ⟨S.take vb, (S.drop vb).take lb, (S.drop vb).drop lb, ?_, ?_, ?_⟩
  · rw [List.length_take_of_le (by omega)]
  · rw [List.length_take_of_le (by rw [List.length_drop]; omega)]
  · rw [List.take_append_drop, List.take_append_drop]

/-- With a bound for every bit, the bound on the number of turns does not matter. -/
theorem parseLoop_eq_parseBits (hw : 0 < vb + lb) {n : Nat} {S : List Bool} (hn : S.length ≤ n) :
    parseLoop vb lb n S = parseBits vb lb S := by
  suffices h : ∀ (n m : Nat) (S : List Bool), S.length ≤ n → S.length ≤ m →
      parseLoop vb lb n S = parseLoop vb lb m S from h n S.length S hn le_rfl
  intro n
  induction n with
  | zero =>
    intro m S hn _
    rw [parseLoop_of_short (by omega), parseLoop_of_short (by omega)]
  | succ n ih =>
    intro m S hn hm
    by_cases hshort : S.length < vb + lb
    · rw [parseLoop_of_short hshort, parseLoop_of_short hshort]
    · obtain ⟨F, G, T, hF, hG, rfl⟩ := exists_fields (Nat.le_of_not_lt hshort)
      by_cases h0 : valOf G = 0
      · rw [parseLoop_of_zero_length hF hG h0, parseLoop_of_zero_length hF hG h0]
      · simp only [List.length_append] at hn hm
        obtain ⟨m, rfl⟩ : ∃ k, m = k + 1 := ⟨m - 1, by omega⟩
        rw [parseLoop_of_run hF hG h0, parseLoop_of_run hF hG h0, ih m T (by omega) (by omega)]

theorem parseBits_of_short {S : List Bool} (h : S.length < vb + lb) : parseBits vb lb S = ([], S) :=
  parseLoop_of_short h

/-- The stop rule of R176: a zero length field is padding. -/
theorem parseBits_of_zero_length {F G S : List Bool} (hF : F.length = vb) (hG : G.length = lb) (h0 : valOf G = 0) :
    parseBits vb lb (F ++ (G ++ S)) = ([], F ++ (G ++ S)) :=
  parseLoop_of_zero_length hF hG h0

theorem parseBits_of_run {F G S : List Bool} (hF : F.length = vb) (hG : G.length = lb) (h0 : valOf G ≠ 0) :
    parseBits vb lb (F ++ (G ++ S)) = (runOf F G :: (parseBits vb lb S).1, (parseBits vb lb S).2) := by
  have hpos : 0 < lb := by
    rw [← hG]
    refine List.length_pos_iff.2 fun hnil => h0 ?_
    rw [hnil]
    rfl
  rw [← parseLoop_eq_parseBits (by omega) (Nat.le_succ _), parseLoop_of_run hF hG h0,
    parseLoop_eq_parseBits (by omega) (by simp only [List.length_append]; omega)]

/-- Zero bits are padding, however many there are (R176). -/
theorem parseBits_zeros (k : Nat) : parseBits vb lb (List.replicate k false) = ([], List.replicate k false) := by
  by_cases h : (List.replicate k false).length < vb + lb
  · exact parseBits_of_short h
  · obtain ⟨F, G, T, hF, hG, hS⟩ := exists_fields (Nat.le_of_not_lt h)
    have hzero : valOf G = 0 := by
      rw [valOf_eq_zero_iff, List.any_eq_false]
      intro b hb
      have hmem : b ∈ List.replicate k false := by
        rw [hS]
        exact List.mem_append_right _ (List.mem_append_left _ hb)
      simp [List.eq_of_mem_replicate hmem]
    rw [hS]
    exact parseBits_of_zero_length hF hG hzero

/-! ### Parsing undoes packing (R180) -/

theorem runOf_bitsOf {r : Run} (h : runFits vb lb r) :
    runOf (bitsOf vb r.value.toNat) (bitsOf lb r.length.toNat) = r := by
  rw [runOf, valOf_bitsOf _ _ h.1, valOf_bitsOf _ _ h.2, BitVec.ofNat_toNat, BitVec.ofNat_toNat,
    BitVec.setWidth_eq, BitVec.setWidth_eq]

theorem parseBits_packBits {runs : List Run} (h : ∀ r ∈ runs, runFits vb lb r ∧ r.length ≠ 0) (k : Nat) :
    parseBits vb lb (packBits vb lb runs ++ List.replicate k false) = (runs, List.replicate k false) := by
  induction runs with
  | nil => exact parseBits_zeros k
  | cons r runs ih =>
    obtain ⟨⟨hfit, hlen⟩, hrest⟩ := List.forall_mem_cons.1 h
    have h0 : valOf (bitsOf lb r.length.toNat) ≠ 0 := by
      rw [valOf_bitsOf _ _ hfit.2]
      exact fun h0 => hlen (BitVec.eq_of_toNat_eq h0)
    rw [packBits_cons, List.append_assoc, List.append_assoc,
      parseBits_of_run (bitsOf_length _ _) (bitsOf_length _ _) h0, runOf_bitsOf hfit, ih hrest]

theorem parsePairs_pack {runs : List Run} (h : ∀ r ∈ runs, runFits vb lb r ∧ r.length ≠ 0) :
    parsePairs (pack runs vb lb) vb lb =
      (runs, List.replicate (8 * byteLen runs.length vb lb - runs.length * (vb + lb)) false) := by
  rw [parsePairs_eq, bitString_pack, parseBits_packBits h]

/-- The strict checks of R177 where the padding is that of `pack`. -/
theorem strictCheck_of_zero_padding {runs : List Run} {k : Nat} (hk : k < 8) :
    strictCheck runs vb lb k false =
      if maximalRuns runs = false then some .payloadError
      else if widths runs ≠ (vb, lb) then some .widthError else none := by
  simp [strictCheck, Nat.not_le.2 hk]

/-- R180, laws 1 and 2. -/
theorem unpack_pack (hw : widthsLegal vb lb = true) {runs : List Run} (h : ∀ r ∈ runs, runFits vb lb r ∧ r.length ≠ 0)
    (strict : Bool) :
    unpack (pack runs vb lb) vb lb strict =
      if strict = true ∧ maximalRuns runs = false then .error .payloadError
      else if strict = true ∧ widths runs ≠ (vb, lb) then .error .widthError
      else .ok runs := by
  have hzero : (List.replicate (8 * byteLen runs.length vb lb - runs.length * (vb + lb)) false).any id = false := by
    simp
  rw [unpack, if_neg (by simp [hw]), parsePairs_pack h]
  simp only [hzero, List.length_replicate, strictCheck_of_zero_padding (padding_lt runs.length vb lb)]
  cases strict with
  | false => simp
  | true =>
    by_cases hmax : maximalRuns runs = false
    · simp [hmax]
    · by_cases hmin : widths runs = (vb, lb)
      · simp [hmax, hmin]
      · simp [hmax, hmin]

/-- R180, law 4: no smaller widths fit the runs. -/
theorem widths_le (hw : widthsLegal vb lb = true) {runs : List Run} (h : ∀ r ∈ runs, runFits vb lb r) :
    (widths runs).1 ≤ vb ∧ (widths runs).2 ≤ lb := by
  obtain ⟨⟨hvb, -⟩, hlb, -⟩ := (widthsLegal_iff _ _).1 hw
  cases runs with
  | nil => exact ⟨hvb, hlb⟩
  | cons q qs =>
    have hv : maxOf ((q :: qs).map fun q => q.value.toNat) < 2 ^ vb :=
      maxOf_lt (Nat.two_pow_pos vb) (List.forall_mem_map.2 fun r hr => (h r hr).1)
    have hl : maxOf ((q :: qs).map fun q => q.length.toNat) < 2 ^ lb :=
      maxOf_lt (Nat.two_pow_pos lb) (List.forall_mem_map.2 fun r hr => (h r hr).2)
    exact ⟨Nat.max_le.2 ⟨hvb, bitsNeeded_le_of_lt hv⟩, bitsNeeded_le_of_lt hl⟩

end

/-- Settles O56: the parser takes the pairs off the bit string one by one, and what is left of it is the padding of
`pack`, which passes the checks of R177 on padding. -/
theorem unpackUndoesPack : Obligations.UnpackUndoesPack := by
  intro runs vb lb hw h
  have hruns : ∀ r ∈ runs, runFits vb lb r ∧ r.length ≠ 0 := fun r hr => by
    obtain ⟨hv, hl, h0⟩ := h r hr
    exact ⟨⟨hv, hl⟩, h0⟩
  obtain ⟨⟨hvb, -⟩, hlb, -⟩ := (widthsLegal_iff _ _).1 (widthsLegal_widths fun r hr => (hruns r hr).2)
  refine ⟨?_, ?_, pack_length runs vb lb, bitString_pack runs vb lb, padding_lt _ _ _, hvb, hlb,
    fun r hr => runFits_widths hr, widths_le hw fun r hr => (hruns r hr).1⟩
  · simpa using unpack_pack hw hruns false
  · simpa using unpack_pack hw hruns true

end Sys2Proof.Machine

/-! ## WIDTH and PACK, and the output phase of packed runs (42_bit_packer.md R174, R182, R183) -/

namespace Sys2Proof.Machine

open Sys2Proof

/-! ### WIDTH (R182) -/

theorem hasZeroLength_eq_false {runs : List Run} (h : ∀ r ∈ runs, r.length ≠ 0) : hasZeroLength runs = false :=
  List.any_eq_false.2 fun r hr => by simpa using h r hr

theorem widthContent_flatMap {l : Latch} {runs : List Run} (hcount : l.count.toNat = runs.length)
    (hlen : ∀ r ∈ runs, r.length ≠ 0) (hbl : byteLen runs.length (widths runs).1 (widths runs).2 ≤ maxWord) :
    widthContent l (runs.flatMap recBytes) =
      .ok
        (silentPlan
          { valueBits := some (widthByte (widths runs).1), lengthBits := some (widthByte (widths runs).2),
            byteLength := some (countWord (byteLen runs.length (widths runs).1 (widths runs).2)),
            runCount := some l.count }) := by
  simp [widthContent, silentPlan, recordsOf_flatMap, hcount, hasZeroLength_eq_false hlen, Nat.not_lt.2 hbl]

theorem readsThenChecks_width {s : State} (he : s.eng = .busyInput) :
    ReadsThenChecks .width s s.latch.recordInput .truncatedStream (widthContent s.latch) :=
  fun rest pos => runCommand_of_input (s := (s.setIn rest).setPos pos) he _

/-- Settles O32: the run records in IN are the counted input, and the plan of `widthContent` has nothing to write. -/
theorem widthGivesTheWidths : Obligations.WidthGivesTheWidths := by
  rintro s runs rest ⟨he, hp, -⟩ hcount hq hlen hbl
  have hn : (runs.flatMap recBytes).length = s.latch.recordInput := by
    rw [flatMap_recBytes_length, Latch.recordInput, hcount]
  have hread := (readsThenChecks_width he).reaches_enterOutput hp hq hn (widthContent_flatMap hcount hlen hbl)
  obtain ⟨t, hclose, hcomplete⟩ := exec_silentPlan .width (s.setIn rest) _
  exact (CompletesTo.of_reaches hread (.head hclose (.of_exec hcomplete))).exists_execSteps

/-! ### The packer's steps (R174) -/

/-- `s` in the output phase at position `o`, with the bytes `out` written since and the bits `S` in the accumulator. -/
def State.packing (s : State) (out : List Byte) (S : List Bool) (o : Output) : State :=
  (s.wrote out o).setAcc (accOf S) S.length

section

variable {s : State} {o : Output}

theorem writeStep_push {x : Half} {w : Nat} {rest : List Item} (h : s.accN < 8) (hi : o.items = .push x w :: rest) :
    s.writeStep o = (s.accPush x w).setPos (.writing { o with items := rest }) := by
  simp [State.writeStep, Nat.not_le.2 h, hi]

variable {i : Instr} {out : List Byte} {S : List Bool}

theorem packing_putOut (b : Byte) : (s.packing out S o).putOut b = s.packing (out ++ [b]) S o := by
  rw [State.packing, State.packing, State.wrote, State.wrote, ← List.append_assoc]
  rfl

theorem packing_setAcc (T : List Bool) : (s.packing out S o).setAcc (accOf T) T.length = s.packing out T o := rfl

theorem packing_setPos (o' : Output) : (s.packing out S o).setPos (.writing o') = s.packing out S o' := rfl

theorem exec_packing (he : s.eng = .busyOutput) :
    exec i (s.packing out S o) = .next ((s.packing out S o).writeStep o) :=
  exec_of_writing (s := s.packing out S o) i he rfl

/-- While the accumulator holds a byte, that byte is written. -/
theorem exec_packing_emit (he : s.eng = .busyOutput) (h8 : 8 ≤ S.length) (h23 : S.length ≤ 23)
    (hroom : (s.outq ++ out).length < s.params.outDepth) :
    exec i (s.packing out S o) = .next (s.packing (out ++ [byteOf (S.take 8)]) (S.drop 8) o) := by
  have hbyte : accByte (s.packing out S o).acc (s.packing out S o).accN = byteOf (S.take 8) := accByte_accOf h23
  have hdrop : accDrop (s.packing out S o).acc (s.packing out S o).accN 8 = accOf (S.drop 8) := accDrop_accOf h23
  have hlen : (s.packing out S o).accN - 8 = (S.drop 8).length := List.length_drop.symm
  rw [exec_packing he, writeStep_emit (s := s.packing out S o) h8, outWrite_room (s := s.packing out S o) hroom,
    hbyte, hdrop, hlen, packing_putOut, packing_setAcc]

theorem exec_packing_push {x : Half} {w : Nat} {items : List Item} (he : s.eng = .busyOutput) (h8 : S.length < 8)
    (hi : o.items = .push x w :: items) (hw : w ≤ 16) (hx : x.toNat < 2 ^ w) :
    exec i (s.packing out S o) = .next (s.packing out (S ++ bitsOf w x.toNat) { o with items := items }) := by
  have hpush : (s.packing out S o).accPush x w =
      s.packing out (S ++ bitsOf w x.toNat) o := by
    rw [← packing_setAcc (S := S) (S ++ _), ← accOf_shiftIn hx (by omega), List.length_append, bitsOf_length]
    rfl
  rw [exec_packing he, writeStep_push (s := s.packing out S o) h8 hi, hpush, packing_setPos]

theorem exec_packing_run {r : Run} (he : s.eng = .busyOutput) (h8 : S.length < 8) (hi : o.items = [])
    (hr : s.runBuf[o.next]? = some r) :
    exec i (s.packing out S o) =
      .next (s.packing out S { o with items := runItems o.form r, next := o.next + 1 }) := by
  rw [exec_packing he, writeStep_run (s := s.packing out S o) h8 hi hr]
  rfl

theorem exec_packing_close (he : s.eng = .busyOutput) (h8 : S.length < 8) (hi : o.items = [])
    (hr : s.runBuf.length ≤ o.next) (hc : o.closed = false) :
    exec i (s.packing out S o) = .next (s.packing out S { o with items := closingItems o.form, closed := true }) := by
  rw [exec_packing he, writeStep_close (s := s.packing out S o) h8 hi hr hc]
  rfl

/-- The flush writes the last byte of what the accumulator holds, or nothing. -/
theorem exec_packing_flush {items : List Item} (he : s.eng = .busyOutput) (h8 : S.length < 8)
    (hroom : (s.outq ++ (out ++ bytesOf S)).length ≤ s.params.outDepth) (hi : o.items = .flush :: items) :
    exec i (s.packing out S o) = .next (s.packing (out ++ bytesOf S) [] { o with items := items }) := by
  rw [exec_packing he]
  by_cases h0 : S = []
  · subst h0
    rw [writeStep_flush_empty (s := s.packing out [] o) rfl hi, bytesOf, List.append_nil]
    rfl
  · have hlen : (s.packing out S o).accN ≠ 0 := mt List.length_eq_zero_iff.1 h0
    rw [bytesOf_accFlush h0 h8] at hroom ⊢
    have hroom' : (s.outq ++ out).length < s.params.outDepth := by
      rw [← List.append_assoc, List.length_append, List.length_singleton] at hroom
      omega
    rw [writeStep_flush (s := s.packing out S o) h8 hlen hi, outWrite_room (s := s.packing out S o) hroom',
      packing_putOut]
    rfl

theorem exec_packing_complete (he : s.eng = .busyOutput) (hi : o.items = []) (hr : s.runBuf.length ≤ o.next)
    (hc : o.closed = true) : exec i (s.packing out [] o) = .next ((s.packing out [] o).complete o.upd) := by
  rw [exec_packing he, writeStep_complete (s := s.packing out [] o) (Nat.zero_lt_succ 7) hi hr hc]

/-! ### From the first run to the completion -/

variable {v : State} {R : List Bool} {W : List Byte}

/-- The bytes to be written, `W`, stay the same while the packer's loop emits them: `out` is written, `S` is held and
`R` is still to be pushed. -/
theorem completesTo_emit {out : List Byte} {S : List Bool} (he : s.eng = .busyOutput)
    (hroom : s.outq.length + W.length ≤ s.params.outDepth) (h23 : S.length ≤ 23) (hW : out ++ bytesOf (S ++ R) = W)
    (hnext : ∀ (out : List Byte) (S : List Bool), S.length < 8 → out ++ bytesOf (S ++ R) = W →
      CompletesTo i (s.packing out S o) v) :
    CompletesTo i (s.packing out S o) v := by
  by_cases h8 : S.length < 8
  · exact hnext out S h8 hW
  · have hW' : (out ++ [byteOf (S.take 8)]) ++ bytesOf (S.drop 8 ++ R) = W := by
      rw [List.append_assoc, List.singleton_append, ← bytesOf_append (List.length_take_of_le (by omega)),
        ← List.append_assoc, List.take_append_drop, hW]
    have hroom' : (s.outq ++ out).length < s.params.outDepth := by
      rw [← hW'] at hroom
      simp only [List.length_append, List.length_singleton] at hroom ⊢
      omega
    have hdrop : (S.drop 8).length < S.length := by
      rw [List.length_drop]
      omega
    exact .head (exec_packing_emit he (by omega) h23 hroom')
      (completesTo_emit he hroom (by omega) hW' hnext)
  termination_by S.length

theorem completesTo_push {x : Half} {w : Nat} {items : List Item} (he : s.eng = .busyOutput)
    (hroom : s.outq.length + W.length ≤ s.params.outDepth) (h8 : S.length < 8) (hi : o.items = .push x w :: items)
    (hw : w ≤ 16) (hx : x.toNat < 2 ^ w) (hW : out ++ bytesOf (S ++ (bitsOf w x.toNat ++ R)) = W)
    (hnext : ∀ (out : List Byte) (S : List Bool), S.length < 8 → out ++ bytesOf (S ++ R) = W →
      CompletesTo i (s.packing out S { o with items := items }) v) :
    CompletesTo i (s.packing out S o) v := by
  refine .head (exec_packing_push he h8 hi hw hx) (completesTo_emit he hroom ?_ ?_ hnext)
  · rw [List.length_append, bitsOf_length]
    omega
  · rwa [List.append_assoc]

/-- From between two runs, the packer writes the runs that are left and the flush, and the command completes. -/
theorem completesTo_packing_runs {vb lb : Nat} (hw : widthsLegal vb lb = true) (he : s.eng = .busyOutput)
    (hroom : s.outq.length + W.length ≤ s.params.outDepth) (hf : o.form = .packed vb lb) (hi : o.items = [])
    (hc : o.closed = false) {runs : List Run} (hruns : s.runBuf.drop o.next = runs)
    (hfit : ∀ r ∈ runs, runFits vb lb r) (h8 : S.length < 8) (hW : out ++ bytesOf (S ++ packBits vb lb runs) = W) :
    CompletesTo i (s.packing out S o) ((s.packing W [] o).complete o.upd) := by
  induction runs generalizing o out S with
  | nil =>
    have hend : s.runBuf.length ≤ o.next := List.drop_eq_nil_iff.1 hruns
    have hclose := exec_packing_close (i := i) (out := out) he h8 hi hend hc
    have hflush : closingItems o.form = [.flush] := by rw [hf]; rfl
    rw [hflush] at hclose
    obtain rfl : out ++ bytesOf S = W := by rwa [packBits, List.flatMap_nil, List.append_nil] at hW
    exact .head hclose (.head (exec_packing_flush he h8 (by rwa [List.length_append]) rfl)
      (.of_exec (exec_packing_complete (o := { o with items := [], closed := true }) he rfl hend rfl)))
  | cons r runs ih =>
    obtain ⟨⟨hvalue, hlength⟩, hrest⟩ := List.forall_mem_cons.1 hfit
    obtain ⟨⟨-, hvb⟩, -, hlb⟩ := (widthsLegal_iff _ _).1 hw
    have hr : s.runBuf[o.next]? = some r := by rw [← List.head?_drop, hruns]; rfl
    have hdrop : s.runBuf.drop (o.next + 1) = runs := by rw [← List.tail_drop, hruns]; rfl
    have htake := exec_packing_run (i := i) (out := out) he h8 hi hr
    have hpush : runItems o.form r = [.push r.value vb, .push r.length lb] := by rw [hf]; rfl
    rw [hpush] at htake
    rw [packBits_cons] at hW
    exact .head htake <| completesTo_push he hroom h8 rfl hvb hvalue hW fun out S h8 hW =>
      completesTo_push he hroom h8 rfl hlb hlength hW fun out S h8 hW =>
        ih (o := { o with items := [], next := o.next + 1 }) hf rfl hc hdrop hrest h8 hW

end

/-- R126, R128, R174: the output phase of a plan with packed fields writes the leading bytes and the payload of `pack`,
and completes. -/
theorem completesTo_enterOutput_packed {i : Instr} {s : State} {plan : Plan} {vb lb : Nat}
    (hf : plan.form = .packed vb lb) (hw : widthsLegal vb lb = true) (hfit : ∀ r ∈ plan.runs, runFits vb lb r)
    (hroom : s.outq.length + (plan.lead ++ pack plan.runs vb lb).length ≤ s.params.outDepth) :
    CompletesTo i (s.enterOutput plan)
      (completedState s s.inq (plan.lead ++ pack plan.runs vb lb) plan.runs plan.upd) := by
  have hlead : (s.outq ++ plan.lead).length ≤ s.params.outDepth := by
    simp only [List.length_append] at hroom ⊢
    omega
  rw [enterOutput_eq_wrote]
  exact .of_reaches (reaches_wrote_bytes rfl (Nat.zero_lt_succ 7) plan.output plan.lead [] hlead)
    (completesTo_packing_runs (s := s.enterOutput plan) (S := []) hw rfl hroom hf rfl rfl rfl hfit
      (Nat.zero_lt_succ 7) rfl)

/-- R127: a counted command whose input is complete and correct consumes exactly that input, and writes the leading
bytes and the payload of its plan. -/
theorem ReadsThenChecks.completes_packed {i : Instr} {s : State} {n : Nat} {short : ErrorCode}
    {content : List Byte → Except ErrorCode Plan} (hx : ReadsThenChecks i s n short content) (hp : s.pos = .start)
    {bs rest : List Byte} (hq : s.inq = bs ++ rest) (hn : bs.length = n) {plan : Plan} (hc : content bs = .ok plan)
    {vb lb : Nat} (hf : plan.form = .packed vb lb) (hw : widthsLegal vb lb = true)
    (hfit : ∀ r ∈ plan.runs, runFits vb lb r)
    (hroom : s.outq.length + (plan.lead ++ pack plan.runs vb lb).length ≤ s.params.outDepth) :
    ∃ k u, execSteps i k s = .next u ∧
      exec i u = .next (completedState s rest (plan.lead ++ pack plan.runs vb lb) plan.runs plan.upd) :=
  (CompletesTo.of_reaches (hx.reaches_enterOutput hp hq hn hc)
    (completesTo_enterOutput_packed (s := s.setIn rest) hf hw hfit hroom)).exists_execSteps

/-! ### PACK (R183) -/

theorem hasWideField_eq_false {vb lb : Nat} {runs : List Run} (h : ∀ r ∈ runs, runFits vb lb r) :
    hasWideField vb lb runs = false :=
  List.any_eq_false.2 fun r hr => by simpa [runFits] using h r hr

theorem packContent_flatMap {l : Latch} {runs : List Run} (hcount : l.count.toNat = runs.length)
    (hlen : ∀ r ∈ runs, r.length ≠ 0) (hfit : ∀ r ∈ runs, runFits l.vb.toNat l.lb.toNat r)
    (hbl : byteLen runs.length l.vb.toNat l.lb.toNat ≤ maxWord) :
    packContent l (runs.flatMap recBytes) =
      .ok
        { runs := runs, lead := [], form := .packed l.vb.toNat l.lb.toNat,
          upd :=
            { byteLength := some (countWord (byteLen runs.length l.vb.toNat l.lb.toNat)),
              runCount := some l.count } } := by
  simp [packContent, recordsOf_flatMap, hcount, hasZeroLength_eq_false hlen, hasWideField_eq_false hfit,
    Nat.not_lt.2 hbl]

theorem checkPackOperands_of_legal {l : Latch} {depth : Nat} (hw : widthsLegal l.vb.toNat l.lb.toNat = true)
    (h : l.count.toNat ≤ depth) : checkPackOperands l depth = none := by
  rw [checkPackOperands, if_neg (by simp [hw]), checkCount_of_le h]

theorem readsThenChecks_pack {s : State} (he : s.eng = .busyInput)
    (hw : widthsLegal s.latch.vb.toNat s.latch.lb.toNat = true) (hdepth : s.latch.count.toNat ≤ s.params.runBufDepth) :
    ReadsThenChecks .pack s s.latch.recordInput .truncatedStream (packContent s.latch) := by
  intro rest pos
  rw [← checkPackOperands_of_legal hw hdepth]
  exact runCommand_of_input (s := (s.setIn rest).setPos pos) he _

/-- Settles O33: the run records in IN are the counted input; at every step of the packer's loop the bytes written and
the bits held and still to be pushed together spell the payload of `pack`. -/
theorem packWritesThePayload : Obligations.PackWritesThePayload := by
  rintro s runs rest ⟨he, hp, -⟩ hw hcount hq hdepth hlen hfit hbl hroom
  refine (readsThenChecks_pack he hw (hcount.trans_le hdepth)).completes_packed hp hq ?_
    (packContent_flatMap hcount hlen hfit hbl) rfl hw hfit ?_
  · rw [flatMap_recBytes_length, Latch.recordInput, hcount]
  · rwa [List.nil_append, pack_length]

end Sys2Proof.Machine

/-! ## The unpacker on the fly, and UNPACK (42_bit_packer.md R179, R184) -/

namespace Sys2Proof.Machine

open Sys2Proof

/-! ### Nonzero fields -/

theorem ofNat_valOf_eq_zero_iff {w : Nat} {S : List Bool} (h : S.length ≤ w) :
    BitVec.ofNat w (valOf S) = 0 ↔ valOf S = 0 := by
  have hfit : valOf S < 2 ^ w := (valOf_lt S).trans_le (Nat.pow_le_pow_right (by decide) h)
  rw [← BitVec.toNat_inj, BitVec.toNat_ofNat, Nat.mod_eq_of_lt hfit]
  rfl

/-- A word that the bits `S` spell is nonzero where one of them is 1. -/
theorem ofNat_valOf_bne_zero {w : Nat} {S : List Bool} (h : S.length ≤ w) :
    (BitVec.ofNat w (valOf S) != 0) = S.any id := by
  have hzero := (ofNat_valOf_eq_zero_iff h).trans (valOf_eq_zero_iff S)
  cases hany : S.any id with
  | false => rw [hzero.2 hany, bne_self_eq_false]
  | true => exact bne_iff_ne.2 fun h0 => by simp [hzero.1 h0] at hany

theorem accOf_bne_zero {S : List Bool} (h : S.length ≤ 23) : (accOf S != 0) = S.any id := ofNat_valOf_bne_zero h

theorem bitsOf_any (b : Byte) : (bitsOf 8 b.toNat).any id = (b != 0) := by
  rw [← ofNat_valOf_bne_zero (w := 8) (bitsOf_length 8 _).le, valOf_bitsOf 8 _ b.isLt, BitVec.ofNat_toNat,
    BitVec.setWidth_eq]

/-! ### The cases of `extractFields` and `takePayloadByte` -/

section

variable {p : Payload} {acc : BitVec 23} {n : Nat}

theorem extractFields_of_stopped (h : p.stopped = true) (k : Nat) : extractFields k p acc n = (p, acc, n) := by
  cases k with
  | zero => rfl
  | succ k => simp [extractFields, h]

theorem extractFields_wait_value (hh : p.held = none) (hn : n < p.vb.toNat) (k : Nat) :
    extractFields k p acc n = (p, acc, n) := by
  cases k with
  | zero => rfl
  | succ k => simp [extractFields, hh, Nat.not_le.2 hn]

theorem extractFields_wait_length {v : Half} (hh : p.held = some v) (hn : n < p.lb.toNat) (k : Nat) :
    extractFields k p acc n = (p, acc, n) := by
  cases k with
  | zero => rfl
  | succ k => simp [extractFields, hh, Nat.not_le.2 hn]

theorem extractFields_value (hs : p.stopped = false) (hh : p.held = none) (hn : p.vb.toNat ≤ n) (k : Nat) :
    extractFields (k + 1) p acc n =
      extractFields k { p with held := some (accTop acc n p.vb.toNat) } (accDrop acc n p.vb.toNat)
        (n - p.vb.toNat) := by
  simp [extractFields, hs, hh, hn]

theorem extractFields_stop {v : Half} (hs : p.stopped = false) (hh : p.held = some v) (hn : p.lb.toNat ≤ n)
    (h0 : accTop acc n p.lb.toNat = 0) (k : Nat) :
    extractFields (k + 1) p acc n =
      ({ p with
          held := none
          stopped := true
          padBits := p.vb.toNat + p.lb.toNat + (n - p.lb.toNat)
          padOne := v != 0 || accDrop acc n p.lb.toNat != 0 }, 0, 0) := by
  simp [extractFields, hs, hh, hn, h0]

theorem extractFields_run {v : Half} (hs : p.stopped = false) (hh : p.held = some v) (hn : p.lb.toNat ≤ n)
    (h0 : accTop acc n p.lb.toNat ≠ 0) (k : Nat) :
    extractFields (k + 1) p acc n =
      extractFields k { p with held := none, runs := p.runs ++ [⟨v, accTop acc n p.lb.toNat⟩] }
        (accDrop acc n p.lb.toNat) (n - p.lb.toNat) := by
  simp only [extractFields, hs, hh, hn, h0, Bool.false_eq_true, if_true, if_false]

theorem takePayloadByte_of_illegal (hw : widthsLegal p.vb.toNat p.lb.toNat = false) (b : Byte) :
    takePayloadByte b p acc n = ({ p with left := p.left - 1 }, acc, n) := by
  simp [takePayloadByte, hw]

theorem takePayloadByte_of_stopped (hw : widthsLegal p.vb.toNat p.lb.toNat = true) (hs : p.stopped = true) (b : Byte) :
    takePayloadByte b p acc n =
      ({ p with left := p.left - 1, padBits := p.padBits + 8, padOne := p.padOne || b != 0 }, acc, n) := by
  simp [takePayloadByte, hw, hs]

theorem takePayloadByte_of_reading (hw : widthsLegal p.vb.toNat p.lb.toNat = true) (hs : p.stopped = false)
    (b : Byte) :
    takePayloadByte b p acc n =
      extractFields (n + 8) { p with left := p.left - 1 } ((acc <<< 8) ||| b.setWidth 23) (n + 8) := by
  simp [takePayloadByte, hw, hs]

/-! What they leave alone: the header's fields, and the number of bytes still to be read. -/

theorem extractFields_frame (k : Nat) (p : Payload) (acc : BitVec 23) (n : Nat) :
    (extractFields k p acc n).1.vb = p.vb ∧ (extractFields k p acc n).1.lb = p.lb ∧
      (extractFields k p acc n).1.bl = p.bl ∧ (extractFields k p acc n).1.left = p.left := by
  induction k generalizing p acc n with
  | zero => exact ⟨rfl, rfl, rfl, rfl⟩
  | succ k ih =>
    cases hs : p.stopped with
    | true =>
      rw [extractFields_of_stopped hs]
      exact ⟨rfl, rfl, rfl, rfl⟩
    | false =>
      cases hh : p.held with
      | none =>
        rcases Nat.lt_or_ge n p.vb.toNat with hn | hn
        · rw [extractFields_wait_value hh hn]
          exact ⟨rfl, rfl, rfl, rfl⟩
        · rw [extractFields_value hs hh hn]
          exact ih _ _ _
      | some v =>
        rcases Nat.lt_or_ge n p.lb.toNat with hn | hn
        · rw [extractFields_wait_length hh hn]
          exact ⟨rfl, rfl, rfl, rfl⟩
        · by_cases h0 : accTop acc n p.lb.toNat = 0
          · rw [extractFields_stop hs hh hn h0]
            exact ⟨rfl, rfl, rfl, rfl⟩
          · rw [extractFields_run hs hh hn h0]
            exact ih _ _ _

theorem takePayloadByte_frame (b : Byte) (p : Payload) (acc : BitVec 23) (n : Nat) :
    (takePayloadByte b p acc n).1.vb = p.vb ∧ (takePayloadByte b p acc n).1.lb = p.lb ∧
      (takePayloadByte b p acc n).1.bl = p.bl ∧ (takePayloadByte b p acc n).1.left = p.left - 1 := by
  cases hw : widthsLegal p.vb.toNat p.lb.toNat with
  | false =>
    rw [takePayloadByte_of_illegal hw]
    exact ⟨rfl, rfl, rfl, rfl⟩
  | true =>
    cases hs : p.stopped with
    | true =>
      rw [takePayloadByte_of_stopped hw hs]
      exact ⟨rfl, rfl, rfl, rfl⟩
    | false =>
      rw [takePayloadByte_of_reading hw hs]
      exact extractFields_frame _ _ _ _

end

/-! ### The unpacker follows the parser (R176, R179) -/

/-- The parser of R176, whatever bits follow `B`, finds `runs` in it and goes on at its last bits `Q`. -/
def ParsesUpTo (vb lb : Nat) (runs : List Run) (B Q : List Bool) : Prop :=
  ∀ R, parseBits vb lb (B ++ R) = (runs ++ (parseBits vb lb (Q ++ R)).1, (parseBits vb lb (Q ++ R)).2)

/-- The payload position and the accumulator agree with the payload bits `B` read so far: before a value field, the
accumulator holds the bits after the last run; before a length field, those are the value field taken and what the
accumulator holds; after the stop rule has fired, they are all padding. -/
inductive Unpacks (B : List Bool) (p : Payload) : BitVec 23 → Nat → Prop
  | atValue (S : List Bool) (hs : p.stopped = false) (hh : p.held = none)
      (hparse : ParsesUpTo p.vb.toNat p.lb.toNat p.runs B S) : Unpacks B p (accOf S) S.length
  | atLength (F S : List Bool) (hs : p.stopped = false) (hh : p.held = some (BitVec.ofNat 16 (valOf F)))
      (hF : F.length = p.vb.toNat) (hparse : ParsesUpTo p.vb.toNat p.lb.toNat p.runs B (F ++ S)) :
      Unpacks B p (accOf S) S.length
  | stopped (pad : List Bool) (acc : BitVec 23) (n : Nat) (hs : p.stopped = true) (hbits : p.padBits = pad.length)
      (hone : p.padOne = pad.any id)
      (hparse : ∀ R, parseBits p.vb.toNat p.lb.toNat (B ++ R) = (p.runs, pad ++ R)) : Unpacks B p acc n

section

variable {vb lb : Nat} {runs : List Run} {B Q : List Bool}

theorem ParsesUpTo.append (h : ParsesUpTo vb lb runs B Q) (T : List Bool) :
    ParsesUpTo vb lb runs (B ++ T) (Q ++ T) := fun R => by
  rw [List.append_assoc, List.append_assoc]
  exact h (T ++ R)

theorem ParsesUpTo.run {F G S : List Bool} (h : ParsesUpTo vb lb runs B (F ++ (G ++ S))) (hF : F.length = vb)
    (hG : G.length = lb) (h0 : valOf G ≠ 0) : ParsesUpTo vb lb (runs ++ [runOf F G]) B S := fun R => by
  rw [h R, List.append_assoc, List.append_assoc, parseBits_of_run hF hG h0, List.append_assoc, List.singleton_append]

theorem ParsesUpTo.stop {F G S : List Bool} (h : ParsesUpTo vb lb runs B (F ++ (G ++ S))) (hF : F.length = vb)
    (hG : G.length = lb) (h0 : valOf G = 0) (R : List Bool) :
    parseBits vb lb (B ++ R) = (runs, F ++ (G ++ S) ++ R) := by
  rw [h R, List.append_assoc, List.append_assoc, parseBits_of_zero_length hF hG h0, List.append_nil]

theorem ParsesUpTo.eq_of_short (h : ParsesUpTo vb lb runs B Q) (hQ : Q.length < vb + lb) :
    parseBits vb lb B = (runs, Q) := by
  have hB := h []
  rwa [List.append_nil, List.append_nil, parseBits_of_short hQ, List.append_nil] at hB

variable {p : Payload} {acc : BitVec 23} {n : Nat}

theorem Unpacks.extractFields (h : Unpacks B p acc n) (hw : widthsLegal p.vb.toNat p.lb.toNat = true) (hn : n ≤ 23)
    (k : Nat) :
    Unpacks B (extractFields k p acc n).1 (extractFields k p acc n).2.1 (extractFields k p acc n).2.2 := by
  obtain ⟨⟨-, hvb⟩, -, hlb⟩ := (widthsLegal_iff _ _).1 hw
  induction k generalizing p acc n with
  | zero => exact h
  | succ k ih =>
    cases h with
    | atValue S hs hh hparse =>
      rcases Nat.lt_or_ge S.length p.vb.toNat with hlen | hlen
      · rw [extractFields_wait_value hh hlen]
        exact .atValue S hs hh hparse
      · rw [extractFields_value hs hh hlen, accTop_accOf hn, accDrop_accOf hn, ← List.length_drop]
        refine ih (.atLength (S.take p.vb.toNat) _ hs rfl (List.length_take_of_le hlen) ?_) hw ?_ hvb hlb
        · rwa [List.take_append_drop]
        · rw [List.length_drop]
          omega
    | atLength F S hs hh hF hparse =>
      rcases Nat.lt_or_ge S.length p.lb.toNat with hlen | hlen
      · rw [extractFields_wait_length hh hlen]
        exact .atLength F S hs hh hF hparse
      · obtain ⟨G, T, hG, rfl⟩ : ∃ G T : List Bool, G.length = p.lb.toNat ∧ S = G ++ T :=
          ⟨S.take p.lb.toNat, S.drop p.lb.toNat, List.length_take_of_le hlen, (List.take_append_drop _ _).symm⟩
        have htop : accTop (accOf (G ++ T)) (G ++ T).length p.lb.toNat = BitVec.ofNat 16 (valOf G) := by
          rw [accTop_accOf hn, ← hG, List.take_left]
        have hdrop : accDrop (accOf (G ++ T)) (G ++ T).length p.lb.toNat = accOf T := by
          rw [accDrop_accOf hn, ← hG, List.drop_left]
        have hleft : (G ++ T).length - p.lb.toNat = T.length := by
          rw [List.length_append, hG, Nat.add_sub_cancel_left]
        have hT : T.length ≤ 23 := by
          rw [List.length_append] at hn
          omega
        have hzero : accTop (accOf (G ++ T)) (G ++ T).length p.lb.toNat = 0 ↔ valOf G = 0 := by
          rw [htop, ofNat_valOf_eq_zero_iff (by omega)]
        by_cases h0 : valOf G = 0
        · rw [extractFields_stop hs hh hlen (hzero.2 h0), hdrop, hleft]
          refine .stopped (F ++ (G ++ T)) _ _ rfl ?_ ?_ (hparse.stop hF hG h0)
          · simp only [List.length_append, hF, hG, Nat.add_assoc]
          · rw [List.any_append, List.any_append, (valOf_eq_zero_iff G).1 h0, Bool.false_or, accOf_bne_zero hT,
              ofNat_valOf_bne_zero (by omega)]
        · rw [extractFields_run hs hh hlen (mt hzero.1 h0), hdrop, hleft, htop]
          exact ih (.atValue T hs rfl (hparse.run hF hG h0)) hw hT hvb hlb
    | stopped pad _ _ hs hbits hone hparse =>
      rw [extractFields_of_stopped hs]
      exact .stopped pad _ _ hs hbits hone hparse

theorem Unpacks.takePayloadByte (h : Unpacks B p acc n) (hw : widthsLegal p.vb.toNat p.lb.toNat = true) (hn : n < 16)
    (b : Byte) :
    Unpacks (B ++ bitsOf 8 b.toNat) (takePayloadByte b p acc n).1 (takePayloadByte b p acc n).2.1
      (takePayloadByte b p acc n).2.2 := by
  cases h with
  | atValue S hs hh hparse =>
    have hpush := Unpacks.atValue (p := { p with left := p.left - 1 }) _ hs hh (hparse.append (bitsOf 8 b.toNat))
    rw [← accOf_shiftIn b.isLt (by omega), List.length_append, bitsOf_length] at hpush
    rw [takePayloadByte_of_reading hw hs]
    exact hpush.extractFields hw (by omega) _
  | atLength F S hs hh hF hparse =>
    have happend := hparse.append (bitsOf 8 b.toNat)
    rw [List.append_assoc] at happend
    have hpush := Unpacks.atLength (p := { p with left := p.left - 1 }) F _ hs hh hF happend
    rw [← accOf_shiftIn b.isLt (by omega), List.length_append, bitsOf_length] at hpush
    rw [takePayloadByte_of_reading hw hs]
    exact hpush.extractFields hw (by omega) _
  | stopped pad _ _ hs hbits hone hparse =>
    rw [takePayloadByte_of_stopped hw hs]
    refine .stopped (pad ++ bitsOf 8 b.toNat) _ _ hs ?_ ?_ fun R => ?_
    · rw [List.length_append, bitsOf_length, hbits]
    · rw [List.any_append, bitsOf_any, hone]
    · rw [List.append_assoc, List.append_assoc]
      exact hparse _

theorem unpacks_begin (vb lb : Byte) (bl : Word) : Unpacks [] (Payload.begin vb lb bl) 0 0 :=
  .atValue [] rfl rfl fun _ => rfl

/-- When the payload is read, what the unpacker has kept is the outcome of the parser. -/
theorem Unpacks.parseBits_eq (h : Unpacks B p acc n) (hw : widthsLegal p.vb.toNat p.lb.toNat = true)
    (hfits : UnpackerFits (p, acc, n)) :
    ∃ pad : List Bool, parseBits p.vb.toNat p.lb.toNat B = (p.runs, pad) ∧ p.padding n = pad.length ∧
      p.paddingOne acc = pad.any id := by
  have hp := (hfits State.reset).2
  obtain ⟨⟨-, hvb⟩, -, hlb⟩ := (widthsLegal_iff _ _).1 hw
  cases h with
  | atValue S hs hh hparse =>
    have hlen : S.length < p.vb.toNat := (payloadFits_of_none hw hs hh).1 hp
    refine ⟨S, hparse.eq_of_short (by omega), by simp [Payload.padding, hs, hh], ?_⟩
    simp only [Payload.paddingOne, hs, hh, accOf_bne_zero (show S.length ≤ 23 by omega), Bool.false_eq_true, if_false]
  | atLength F S hs hh hF hparse =>
    have hlen : S.length < p.lb.toNat := (payloadFits_of_some hw hs hh).1 hp
    refine ⟨F ++ S, hparse.eq_of_short (by rw [List.length_append]; omega), by simp [Payload.padding, hs, hh, hF], ?_⟩
    simp only [Payload.paddingOne, hs, hh, accOf_bne_zero (show S.length ≤ 23 by omega), List.any_append,
      ofNat_valOf_bne_zero (show F.length ≤ 16 by omega), Bool.false_eq_true, if_false]
  | stopped pad _ _ hs hbits hone hparse =>
    have hB := hparse []
    rw [List.append_nil, List.append_nil] at hB
    exact ⟨pad, hB, by simp [Payload.padding, hs, hbits], by simp [Payload.paddingOne, hs, hone]⟩

end

/-! ### A whole payload (R178, R179) -/

/-- The unpacker's position and accumulator after one more payload byte. -/
def nextByte (r : Payload × BitVec 23 × Nat) (b : Byte) : Payload × BitVec 23 × Nat :=
  takePayloadByte b r.1 r.2.1 r.2.2

/-- The unpacker's position and accumulator after the bytes `P` of a payload whose header gives `vb`, `lb` and `bl`. -/
def unpackBytes (vb lb : Byte) (bl : Word) (P : List Byte) : Payload × BitVec 23 × Nat :=
  P.foldl nextByte (Payload.begin vb lb bl, 0, 0)

theorem unpackBytes_concat (vb lb : Byte) (bl : Word) (P : List Byte) (b : Byte) :
    unpackBytes vb lb bl (P ++ [b]) = nextByte (unpackBytes vb lb bl P) b := by
  rw [unpackBytes, List.foldl_append]
  rfl

section

variable (vb lb : Byte) (bl : Word) (P : List Byte)

theorem unpackBytes_frame :
    (unpackBytes vb lb bl P).1.vb = vb ∧ (unpackBytes vb lb bl P).1.lb = lb ∧ (unpackBytes vb lb bl P).1.bl = bl ∧
      (unpackBytes vb lb bl P).1.left = bl.toNat - P.length := by
  induction P using List.reverseRecOn with
  | nil => exact ⟨rfl, rfl, rfl, rfl⟩
  | append_singleton P b ih =>
    obtain ⟨hvb, hlb, hbl, hleft⟩ := ih
    obtain ⟨hvb', hlb', hbl', hleft'⟩ := takePayloadByte_frame b (unpackBytes vb lb bl P).1
      (unpackBytes vb lb bl P).2.1 (unpackBytes vb lb bl P).2.2
    rw [unpackBytes_concat, nextByte, List.length_append, List.length_singleton]
    exact ⟨hvb'.trans hvb, hlb'.trans hlb, hbl'.trans hbl, by rw [hleft', hleft, Nat.sub_sub]⟩

theorem unpackerFits_unpackBytes : UnpackerFits (unpackBytes vb lb bl P) := by
  induction P using List.reverseRecOn with
  | nil => exact fun s => ⟨.of_empty rfl rfl, payloadFits_begin vb lb bl rfl⟩
  | append_singleton P b ih =>
    obtain ⟨hacc, hp⟩ := ih State.reset
    rw [unpackBytes_concat]
    exact unpackerFits_takePayloadByte hacc hp b

theorem unpacks_unpackBytes (hw : widthsLegal vb.toNat lb.toNat = true) :
    Unpacks (bitString P) (unpackBytes vb lb bl P).1 (unpackBytes vb lb bl P).2.1 (unpackBytes vb lb bl P).2.2 := by
  induction P using List.reverseRecOn with
  | nil => exact unpacks_begin vb lb bl
  | append_singleton P b ih =>
    obtain ⟨hvb, hlb, -⟩ := unpackBytes_frame vb lb bl P
    have hn : (unpackBytes vb lb bl P).2.2 < 16 := (unpackerFits_unpackBytes vb lb bl P State.reset).2.accN_lt
    have hbits : bitString (P ++ [b]) = bitString P ++ bitsOf 8 b.toNat := by simp [bitString]
    rw [unpackBytes_concat, hbits]
    exact ih.takePayloadByte (by rwa [hvb, hlb]) hn b

/-- R179: the outcome on the fly is that of `unpack`. -/
theorem unpacked_unpackBytes (strict : Bool) :
    (unpackBytes vb lb bl P).1.unpacked strict (unpackBytes vb lb bl P).2.1 (unpackBytes vb lb bl P).2.2 =
      unpack P vb.toNat lb.toNat strict := by
  obtain ⟨hvb, hlb, -⟩ := unpackBytes_frame vb lb bl P
  cases hw : widthsLegal vb.toNat lb.toNat with
  | false => simp [Payload.unpacked, unpack, hvb, hlb, hw]
  | true =>
    obtain ⟨pad, hparse, hbits, hone⟩ := (unpacks_unpackBytes vb lb bl P hw).parseBits_eq (by rwa [hvb, hlb])
      (unpackerFits_unpackBytes vb lb bl P)
    rw [hvb, hlb, ← parsePairs_eq] at hparse
    cases strict with
    | false => simp [Payload.unpacked, unpack, hvb, hlb, hw, hparse]
    | true =>
      cases hcheck : strictCheck (unpackBytes vb lb bl P).1.runs vb.toNat lb.toNat pad.length (pad.any id) with
      | none => simp [Payload.unpacked, unpack, hvb, hlb, hw, hparse, hbits, hone, hcheck]
      | some e => simp [Payload.unpacked, unpack, hvb, hlb, hw, hparse, hbits, hone, hcheck]

end

/-- Settles O57: after each payload byte the unpacker's position and accumulator hold what the parser has found in the
bits so far. -/
theorem onTheFlyUnpackerAgrees : Obligations.OnTheFlyUnpackerAgrees :=
  fun P vb lb bl strict => unpacked_unpackBytes vb lb bl P strict

end Sys2Proof.Machine

/-! ## Reading a payload from IN, and UNPACK (42_bit_packer.md R178, R184) -/

namespace Sys2Proof.Machine

open Sys2Proof

/-! ### The input phase of a payload (R124, R179) -/

theorem payloadInput_start {s : State} (hp : s.pos = .start)
    (hw : widthsLegal s.latch.vb.toNat s.latch.lb.toNat = true)
    (content : Payload → List Run → Except ErrorCode Plan) :
    payloadInput content s =
      .next (s.setPos (.payload (Payload.begin s.latch.vb s.latch.lb s.latch.bl))) := by
  simp [payloadInput, hp, hw]

theorem payloadStep_done {s : State} {p : Payload} {runs : List Run} (hl : p.left = 0)
    (hu : p.unpacked s.latch.strict s.acc s.accN = .ok runs) (hd : runs.length ≤ s.params.runBufDepth)
    (content : Payload → List Run → Except ErrorCode Plan) :
    payloadStep content s p = s.conclude (content p runs) := by
  simp [payloadStep, hl, hu, Nat.not_lt.2 hd]

theorem widthsLegal_of_unpack_ok {P : List Byte} {vb lb : Nat} {strict : Bool} {runs : List Run}
    (h : unpack P vb lb strict = .ok runs) : widthsLegal vb lb = true := by
  cases hw : widthsLegal vb lb with
  | false => simp [unpack, hw] at h
  | true => rfl

/-- `s` inside a payload: `rest` is left in IN, and `r` is the unpacker's position and accumulator. -/
def State.unpacking (s : State) (rest : List Byte) (r : Payload × BitVec 23 × Nat) : State :=
  ((s.setIn rest).setAcc r.2.1 r.2.2).setPos (.payload r.1)

/-- The command `i` reads a payload, and checks its runs with `content`. -/
def ReadsPayload (i : Instr) (s : State) (content : Payload → List Run → Except ErrorCode Plan) : Prop :=
  ∀ rest r, exec i (s.unpacking rest r) = .next (payloadStep content (s.unpacking rest r) r.1)

section

variable {i : Instr} {s : State} {content : Payload → List Run → Except ErrorCode Plan}

theorem ReadsPayload.exec_take (hx : ReadsPayload i s content) (b : Byte) (rest : List Byte)
    {r : Payload × BitVec 23 × Nat} (h : 0 < r.1.left) :
    exec i (s.unpacking (b :: rest) r) = .next (s.unpacking rest (nextByte r b)) := by
  rw [hx, payloadStep_short h, inRead_cons rfl]
  rfl

/-- The engine takes the payload bytes one by one while they are in IN. -/
theorem ReadsPayload.reaches_unpacking (hx : ReadsPayload i s content) (vb lb : Byte) {bl : Word} {P : List Byte}
    (hP : P.length ≤ bl.toNat) (rest : List Byte) :
    ExecReaches i (s.unpacking (P ++ rest) (unpackBytes vb lb bl [])) (s.unpacking rest (unpackBytes vb lb bl P)) := by
  induction P using List.reverseRecOn generalizing rest with
  | nil => exact .refl _
  | append_singleton P b ih =>
    rw [List.length_append, List.length_singleton] at hP
    obtain ⟨-, -, -, hleft⟩ := unpackBytes_frame vb lb bl P
    have htake := hx.exec_take b rest (r := unpackBytes vb lb bl P) (by omega)
    rw [List.append_assoc, List.singleton_append, unpackBytes_concat]
    exact (ih (by omega) (b :: rest)).trans (.head htake (.refl _))

/-- A payload that is in IN whole and unpacks to runs that fit the run buffer leads to the plan of its runs. -/
theorem ReadsPayload.reaches_enterOutput (hx : ReadsPayload i s content) {vb lb : Byte} {bl : Word} {P : List Byte}
    (hP : bl.toNat = P.length) (rest : List Byte) {runs : List Run}
    (hu : unpack P vb.toNat lb.toNat s.latch.strict = .ok runs) (hd : runs.length ≤ s.params.runBufDepth) {plan : Plan}
    (hc : ∀ p : Payload, p.vb = vb → p.lb = lb → p.bl = bl → content p runs = .ok plan) :
    ExecReaches i (s.unpacking (P ++ rest) (unpackBytes vb lb bl [])) ((s.setIn rest).enterOutput plan) := by
  obtain ⟨hvb, hlb, hbl, hleft⟩ := unpackBytes_frame vb lb bl P
  rw [hP, Nat.sub_self] at hleft
  rw [← unpacked_unpackBytes vb lb bl P] at hu
  have hdone := payloadStep_done (s := s.unpacking rest (unpackBytes vb lb bl P)) hleft hu hd content
  rw [hc _ hvb hlb hbl] at hdone
  exact (hx.reaches_unpacking vb lb hP.ge rest).trans (.head ((hx _ _).trans (congrArg _ hdone)) (.refl _))

end

/-! ### UNPACK (R184) -/

theorem readsPayload_unpack {s : State} (he : s.eng = .busyInput) : ReadsPayload .unpack s unpackContent := by
  intro rest r
  rw [exec_unpack (s := s.unpacking rest r) he, payloadInput_payload rfl]

theorem exec_unpack_start {s : State} (hs : Accepted s)
    (hw : widthsLegal s.latch.vb.toNat s.latch.lb.toNat = true) :
    exec .unpack s = .next (s.unpacking s.inq (unpackBytes s.latch.vb s.latch.lb s.latch.bl [])) := by
  obtain ⟨he, hp, hacc, hn, -⟩ := hs
  have hempty : s.setPos (.payload (Payload.begin s.latch.vb s.latch.lb s.latch.bl)) =
      s.unpacking s.inq (Payload.begin s.latch.vb s.latch.lb s.latch.bl, s.acc, s.accN) := rfl
  rw [exec_unpack he, payloadInput_start hp hw, hempty, hacc, hn]
  rfl

/-- Settles O34: the payload in IN is read through the unpacker, whose outcome is that of `unpack`, and the plan of
`unpackContent` writes run records. -/
theorem unpackWritesTheRunRecords : Obligations.UnpackWritesTheRunRecords := by
  intro s P rest runs hs hP hq hu hdepth hroom
  have hstart := exec_unpack_start hs (widthsLegal_of_unpack_ok hu)
  rw [hq] at hstart
  have hread := (readsPayload_unpack hs.1).reaches_enterOutput hP rest hu hdepth fun _ _ _ _ => rfl
  have hdone := completesTo_enterOutput (i := .unpack) (s := s.setIn rest)
    (plan := { runs := runs, lead := [], form := .records, upd := { runCount := some (countWord runs.length) } })
    writesBytes_records (by rwa [List.nil_append, List.append_nil, List.length_append, flatMap_recBytes_length])
  rw [List.nil_append, List.append_nil] at hdone
  exact (CompletesTo.head hstart (.of_reaches hread hdone)).exists_execSteps

end Sys2Proof.Machine

/-! ## Strict decoding of a block is canonical (43_block_codec.md R200, R209) -/

namespace Sys2Proof.Machine

open Sys2Proof

/-! ### What the parser takes off a bit string (R176) -/

section

variable {vb lb : Nat}

theorem bitsOf_ofNat_valOf {F : List Bool} {w : Nat} (hF : F.length ≤ w) :
    bitsOf F.length (BitVec.ofNat w (valOf F)).toNat = F := by
  have hlt : valOf F < 2 ^ w := (valOf_lt F).trans_le (Nat.pow_le_pow_right (by decide) hF)
  rw [BitVec.toNat_ofNat, Nat.mod_eq_of_lt hlt, bitsOf_valOf]

/-- Packing the run that two fields spell gives the fields back. -/
theorem packBits_runOf_cons {F G : List Bool} (hF : F.length = vb) (hG : G.length = lb) (hvb : vb ≤ 16)
    (hlb : lb ≤ 16) (runs : List Run) :
    packBits vb lb (runOf F G :: runs) = F ++ (G ++ packBits vb lb runs) := by
  subst hF hG
  rw [packBits_cons, runOf, bitsOf_ofNat_valOf hvb, bitsOf_ofNat_valOf hlb]

/-- The parser splits its input into the fields of the runs it finds, none of length 0, and the rest. -/
theorem parseLoop_spec (hvb : vb ≤ 16) (hlb : lb ≤ 16) (n : Nat) (S : List Bool) :
    packBits vb lb (parseLoop vb lb n S).1 ++ (parseLoop vb lb n S).2 = S ∧
      ∀ r ∈ (parseLoop vb lb n S).1, r.length ≠ 0 := by
  induction n generalizing S with
  | zero => exact ⟨rfl, nofun⟩
  | succ n ih =>
    by_cases hshort : S.length < vb + lb
    · rw [parseLoop_of_short hshort]
      exact ⟨rfl, nofun⟩
    · obtain ⟨F, G, T, hF, hG, rfl⟩ := exists_fields (Nat.le_of_not_lt hshort)
      by_cases h0 : valOf G = 0
      · rw [parseLoop_of_zero_length hF hG h0]
        exact ⟨rfl, nofun⟩
      · obtain ⟨hsplit, hlen⟩ := ih T
        rw [parseLoop_of_run hF hG h0]
        refine ⟨?_, List.forall_mem_cons.2 ⟨mt (ofNat_valOf_eq_zero_iff (hG.trans_le hlb)).1 h0, hlen⟩⟩
        rw [packBits_runOf_cons hF hG hvb hlb, List.append_assoc, List.append_assoc, hsplit]

end

/-! ### A payload is the bytes of its bits (R11) -/

theorem bytesOf_bitString (P : List Byte) : bytesOf (bitString P) = P := by
  induction P with
  | nil => rfl
  | cons b P ih =>
    rw [bitString_cons, bytesOf_append (bitsOf_length 8 _), ih, byteOf, valOf_bitsOf 8 _ b.isLt, BitVec.ofNat_toNat,
      BitVec.setWidth_eq]

theorem bitString_injective : Function.Injective bitString :=
  Function.LeftInverse.injective bytesOf_bitString

/-- A payload of packed runs and less than a byte of zero padding is the payload of `pack` (R173). -/
theorem eq_pack_of_bitString {P : List Byte} {runs : List Run} {vb lb : Nat} {pad : List Bool}
    (hP : bitString P = packBits vb lb runs ++ pad) (h8 : pad.length < 8) (hzero : pad.any id = false) :
    P = pack runs vb lb := by
  have hpad : pad = List.replicate pad.length false :=
    List.eq_replicate_of_mem fun b hb => by simpa using List.any_eq_false.1 hzero b hb
  have hlen : 8 * P.length = runs.length * (vb + lb) + pad.length := by
    rw [← bitString_length, hP, List.length_append, packBits_length]
  have hcount : pad.length = 8 * byteLen runs.length vb lb - runs.length * (vb + lb) := by
    unfold byteLen ceilDiv
    omega
  apply bitString_injective
  rw [hP, bitString_pack, ← hcount, ← hpad]

/-! ### The payloads that STRICT accepts (R177, R178) -/

theorem strictCheck_eq_none_iff {runs : List Run} {vb lb k : Nat} {one : Bool} :
    strictCheck runs vb lb k one = none ↔
      one = false ∧ k < 8 ∧ maximalRuns runs = true ∧ widths runs = (vb, lb) := by
  unfold strictCheck
  split
  next hone => simp [hone]
  next hone =>
    split
    next hk => simp [Nat.not_lt.2 hk]
    next hk =>
      split
      next hmax => simp [hmax]
      next hmax => simp [hone, Nat.lt_of_not_le hk, hmax]

theorem unpack_strict_eq_ok {P : List Byte} {vb lb : Nat} {runs : List Run} (h : unpack P vb lb true = .ok runs) :
    (parsePairs P vb lb).1 = runs ∧
      strictCheck runs vb lb (parsePairs P vb lb).2.length ((parsePairs P vb lb).2.any id) = none := by
  rw [unpack, if_neg (by simp [widthsLegal_of_unpack_ok h])] at h
  simp only [if_true] at h
  split at h
  · cases h
  next hcheck =>
    cases h
    exact ⟨rfl, hcheck⟩

/-- STRICT accepts exactly the payloads that `pack` writes for maximal runs of nonzero length with their own widths. -/
theorem unpack_strict_eq_ok_iff {P : List Byte} {vb lb : Nat} {runs : List Run} :
    unpack P vb lb true = .ok runs ↔
      (∀ r ∈ runs, r.length ≠ 0) ∧ maximalRuns runs = true ∧ widths runs = (vb, lb) ∧ P = pack runs vb lb := by
  constructor
  · intro h
    obtain ⟨⟨-, hvb⟩, -, hlb⟩ := (widthsLegal_iff _ _).1 (widthsLegal_of_unpack_ok h)
    obtain ⟨hruns, hcheck⟩ := unpack_strict_eq_ok h
    obtain ⟨hzero, h8, hmax, hmin⟩ := strictCheck_eq_none_iff.1 hcheck
    obtain ⟨hsplit, hlen⟩ := parseLoop_spec hvb hlb (bitString P).length (bitString P)
    rw [← parseBits, ← parsePairs_eq, hruns] at hsplit hlen
    exact ⟨hlen, hmax, hmin, eq_pack_of_bitString hsplit.symm h8 hzero⟩
  · rintro ⟨hlen, hmax, hmin, rfl⟩
    have hfit : ∀ r ∈ runs, runFits vb lb r ∧ r.length ≠ 0 := fun r hr => by
      have hr' := runFits_widths hr
      rw [hmin] at hr'
      exact ⟨hr', hlen r hr⟩
    have hw := widthsLegal_widths hlen
    rw [hmin] at hw
    rw [unpack_pack hw hfit]
    simp [hmax, hmin]

/-! ### The labels of runs, and the runs of labels (R150, R151) -/

/-- A run with its length as a number, as `rle_encode` answers it. -/
def ofRun (r : Run) : Half × Nat := (r.value, r.length.toNat)

@[simp] theorem toRun_ofRun (r : Run) : toRun (ofRun r) = r := by simp [toRun, ofRun]

theorem map_toRun_map_ofRun (runs : List Run) : (runs.map ofRun).map toRun = runs := by simp [Function.comp_def]

theorem rleDecode_cons (r : Run) (runs : List Run) :
    rleDecode (r :: runs) = List.replicate r.length.toNat r.value ++ rleDecode runs := rfl

theorem rleScan_replicate (v : Half) (len k : Nat) (ys : List Half) :
    rleScan v len (List.replicate k v ++ ys) = rleScan v (len + k) ys := by
  induction k generalizing len with
  | zero => rfl
  | succ k ih =>
    rw [List.replicate_succ, List.cons_append, rleScan, if_pos rfl, ih]
    congr 1
    omega

/-- Where the next label differs, the open run is over. -/
theorem rleScan_of_head_ne {v : Half} {ys : List Half} (h : ys.head? ≠ some v) (len : Nat) :
    rleScan v len ys = (v, len) :: rleEncode ys := by
  cases ys with
  | nil => rfl
  | cons y ys =>
    have hne : y ≠ v := fun hy => h (congrArg some hy)
    rw [rleScan, if_neg hne]
    rfl

theorem rleEncode_replicate {v : Half} {k : Nat} {ys : List Half} (hk : k ≠ 0) (h : ys.head? ≠ some v) :
    rleEncode (List.replicate k v ++ ys) = (v, k) :: rleEncode ys := by
  obtain ⟨k, rfl⟩ := Nat.exists_eq_succ_of_ne_zero hk
  rw [List.replicate_succ, List.cons_append, rleEncode, rleScan_replicate, rleScan_of_head_ne h, Nat.add_comm]

theorem maximalRuns_iff_isChain (runs : List Run) :
    maximalRuns runs = true ↔ runs.IsChain fun a b => a.value ≠ b.value := by
  induction runs with
  | nil => exact iff_of_true rfl List.isChain_nil
  | cons r runs ih =>
    cases runs with
    | nil => exact iff_of_true rfl (List.isChain_singleton _)
    | cons q runs => rw [maximalRuns, Bool.and_eq_true, bne_iff_ne, ih, List.isChain_cons_cons]

theorem length_toNat_ne_zero {r : Run} (h : r.length ≠ 0) : r.length.toNat ≠ 0 :=
  fun h0 => h (BitVec.eq_of_toNat_eq h0)

theorem head?_rleDecode {runs : List Run} (h : ∀ r ∈ runs, r.length ≠ 0) :
    (rleDecode runs).head? = runs.head?.map Run.value := by
  cases runs with
  | nil => rfl
  | cons r runs =>
    obtain ⟨k, hk⟩ := Nat.exists_eq_succ_of_ne_zero (length_toNat_ne_zero (h r List.mem_cons_self))
    rw [rleDecode_cons, hk]
    rfl

/-- R157, the other way round: maximal runs of nonzero length are the runs of the labels they expand to. -/
theorem rleEncode_rleDecode {runs : List Run} (hlen : ∀ r ∈ runs, r.length ≠ 0)
    (hmax : runs.IsChain fun a b => a.value ≠ b.value) : rleEncode (rleDecode runs) = runs.map ofRun := by
  induction runs with
  | nil => rfl
  | cons r runs ih =>
    obtain ⟨hr, hrest⟩ := List.forall_mem_cons.1 hlen
    obtain ⟨hnext, hchain⟩ := List.isChain_cons.1 hmax
    have hhead : (rleDecode runs).head? ≠ some r.value := by
      rw [head?_rleDecode hrest]
      intro h
      obtain ⟨q, hq, hv⟩ := Option.map_eq_some_iff.1 h
      exact hnext q hq hv.symm
    rw [rleDecode_cons, rleEncode_replicate (length_toNat_ne_zero hr) hhead, ih hrest hchain]
    rfl

/-! ### The runs of a sample (R153) -/

section

variable {xs : List Half}

theorem sampleRuns_length_ne_zero (hlen : ∀ r ∈ rleEncode xs, r.2 ≤ 65535) : ∀ r ∈ sampleRuns xs, r.length ≠ 0 :=
  List.forall_mem_map.2 fun r hr => toRun_length_ne_zero (rleEncode_length_pos xs r hr) (hlen r hr)

theorem maximalRuns_sampleRuns (xs : List Half) : maximalRuns (sampleRuns xs) = true := by
  rw [maximalRuns_iff_isChain, sampleRuns, List.isChain_map]
  exact isChain_rleEncode xs

theorem rleDecode_sampleRuns (hlen : ∀ r ∈ rleEncode xs, r.2 ≤ 65535) : rleDecode (sampleRuns xs) = xs := by
  calc rleDecode (sampleRuns xs)
    _ = rleExpand (rleEncode xs) := by
      rw [rleDecode, sampleRuns, List.flatMap_map, rleExpand]
      refine List.flatMap_congr fun r hr => ?_
      have hfit : (toRun r).length.toNat = r.2 := by
        have := hlen r hr
        rw [toRun, BitVec.toNat_ofNat]
        omega
      rw [hfit]
      rfl
    _ = xs := rleExpand_rleEncode xs

end

/-! ### The block of runs (R200) -/

theorem encodeBlock_eq (runs : List Run) :
    encodeBlock runs =
      hdrBytes (widthByte (widths runs).1) (widthByte (widths runs).2)
          (countWord (byteLen runs.length (widths runs).1 (widths runs).2)) ++
        pack runs (widths runs).1 (widths runs).2 := rfl

theorem wordBytes_injective : Function.Injective wordBytes := by
  intro x y h
  simp only [wordBytes, List.cons.injEq, and_true] at h
  obtain ⟨h3, h2, h1, h0⟩ := h
  rw [← wordOf_bytes x, ← wordOf_bytes y, h3, h2, h1, h0]

/-- The header and the payload of a block can be told apart (R89). -/
theorem hdrBytes_append_inj {vb lb vb' lb' : Byte} {bl bl' : Word} {P P' : List Byte} :
    hdrBytes vb lb bl ++ P = hdrBytes vb' lb' bl' ++ P' ↔ vb = vb' ∧ lb = lb' ∧ bl = bl' ∧ P = P' := by
  constructor
  · intro h
    obtain ⟨hhdr, hP⟩ := List.append_inj h (by simp only [hdrBytes_length])
    simp only [hdrBytes, List.cons.injEq] at hhdr
    obtain ⟨hvb, hlb, hbl⟩ := hhdr
    exact ⟨hvb, hlb, wordBytes_injective hbl, hP⟩
  · rintro ⟨rfl, rfl, rfl, rfl⟩
    rfl

/-- A legal width fits the byte of its register. -/
theorem widthByte_toNat {w : Nat} (h : w ≤ 16) : (widthByte w).toNat = w := by
  rw [widthByte, BitVec.toNat_ofNat]
  omega

theorem widthBytes_toNat {runs : List Run} (h : ∀ r ∈ runs, r.length ≠ 0) :
    (widthByte (widths runs).1).toNat = (widths runs).1 ∧ (widthByte (widths runs).2).toNat = (widths runs).2 := by
  obtain ⟨⟨-, hvb⟩, -, hlb⟩ := (widthsLegal_iff _ _).1 (widthsLegal_widths h)
  exact ⟨widthByte_toNat hvb, widthByte_toNat hlb⟩

/-- R209, law 4: STRICT accepts a block exactly if it is the encoding of maximal runs of nonzero length, which it then
answers. -/
theorem unpack_strict_iff_encodeBlock {vb lb : Byte} {bl : Word} {P : List Byte} (hbl : bl.toNat = P.length)
    {runs : List Run} :
    unpack P vb.toNat lb.toNat true = .ok runs ↔
      (∀ r ∈ runs, r.length ≠ 0) ∧ maximalRuns runs = true ∧ hdrBytes vb lb bl ++ P = encodeBlock runs := by
  rw [unpack_strict_eq_ok_iff, encodeBlock_eq, hdrBytes_append_inj]
  refine and_congr_right fun hlen => and_congr_right fun _ => ?_
  obtain ⟨hvb, hlb⟩ := widthBytes_toNat hlen
  constructor
  · rintro ⟨hmin, rfl⟩
    have hword : bl = countWord (pack runs vb.toNat lb.toNat).length := by
      rw [← hbl, countWord, BitVec.ofNat_toNat, BitVec.setWidth_eq]
    rw [hmin] at hvb hlb ⊢
    exact ⟨(BitVec.eq_of_toNat_eq hvb).symm, (BitVec.eq_of_toNat_eq hlb).symm, by rwa [pack_length] at hword, rfl⟩
  · rintro ⟨rfl, rfl, -, rfl⟩
    rw [hvb, hlb]
    exact ⟨rfl, rfl⟩

/-- Settles O58: both ways through `unpack_strict_iff_encodeBlock`; its runs are those of the labels they expand to. -/
theorem strictDecodingIsCanonical : Obligations.StrictDecodingIsCanonical := by
  intro vb lb bl P hbl
  refine ⟨fun runs hu => ?_, fun xs hlen hblock => ?_⟩
  · obtain ⟨hlen, hmax, hblock⟩ := (unpack_strict_iff_encodeBlock hbl).1 hu
    have henc := rleEncode_rleDecode hlen ((maximalRuns_iff_isChain runs).1 hmax)
    have hsample : sampleRuns (rleDecode runs) = runs := by rw [sampleRuns, henc, map_toRun_map_ofRun]
    refine ⟨?_, hsample, by rwa [hsample]⟩
    rw [henc]
    exact List.forall_mem_map.2 fun r _ => Nat.le_of_lt_succ r.length.isLt
  · exact ⟨(unpack_strict_iff_encodeBlock hbl).2
      ⟨sampleRuns_length_ne_zero hlen, maximalRuns_sampleRuns xs, hblock⟩, rleDecode_sampleRuns hlen⟩

end Sys2Proof.Machine

/-! ## Decoding a file undoes encoding it (43_block_codec.md R202, R207 to R209) -/

namespace Sys2Proof.Machine

open Sys2Proof

/-! ### One block (R200, R202) -/

section

variable {depth : Nat} {xs : List Half}

theorem encodable_iff :
    encodable depth xs = true ↔
      (∀ r ∈ rleEncode xs, r.2 ≤ 65535) ∧ (rleEncode xs).length ≤ depth ∧ xs.length ≤ maxWord ∧
        byteLen (sampleRuns xs).length (widths (sampleRuns xs)).1 (widths (sampleRuns xs)).2 ≤ maxWord := by
  simp [encodable, and_assoc]

/-- A header and as many bytes as it says are one block, whatever follows. -/
theorem readBenBlock_hdrBytes {strict : Bool} {vb lb : Byte} {bl : Word} {P : List Byte} (hbl : bl.toNat = P.length)
    (rest : List Byte) {runs : List Run} (hu : unpack P vb.toNat lb.toNat strict = .ok runs)
    (hd : runs.length ≤ depth) : readBenBlock depth strict (hdrBytes vb lb bl ++ P ++ rest) = .ok (runs, rest) := by
  simp [hdrBytes, wordBytes, readBenBlock, wordOf_bytes, hbl, hu, Nat.not_lt.2 hd]

/-- R180, with the widths that the block gives: both values of STRICT accept its payload. -/
theorem unpack_pack_widths {runs : List Run} (hlen : ∀ r ∈ runs, r.length ≠ 0) (hmax : maximalRuns runs = true)
    (strict : Bool) :
    unpack (pack runs (widths runs).1 (widths runs).2) (widths runs).1 (widths runs).2 strict = .ok runs := by
  rw [unpack_pack (widthsLegal_widths hlen) fun r hr => ⟨runFits_widths hr, hlen r hr⟩]
  simp [hmax]

/-- Reading undoes `encodeBlock` for the runs of a sample. -/
theorem readBenBlock_encodeBlock (h : encodable depth xs = true) (strict : Bool) (rest : List Byte) :
    readBenBlock depth strict (encodeBlock (sampleRuns xs) ++ rest) = .ok (sampleRuns xs, rest) := by
  obtain ⟨hlen, hdepth, -, hbl⟩ := encodable_iff.1 h
  have hnonzero := sampleRuns_length_ne_zero hlen
  obtain ⟨hvb, hlb⟩ := widthBytes_toNat hnonzero
  rw [encodeBlock_eq]
  refine readBenBlock_hdrBytes ?_ rest ?_ ?_
  · rw [pack_length, countWord, BitVec.toNat_ofNat]
    exact Nat.mod_eq_of_lt (Nat.lt_of_le_of_lt hbl (by decide))
  · rw [hvb, hlb]
    exact unpack_pack_widths hnonzero (maximalRuns_sampleRuns xs) strict
  · rwa [sampleRuns, List.length_map]

theorem totalLength_sampleRuns (hlen : ∀ r ∈ rleEncode xs, r.2 ≤ 65535) :
    totalLength (sampleRuns xs) = xs.length := by
  rw [← rleDecode_length, rleDecode_sampleRuns hlen]

end

/-! ### The blocks of a file -/

/-- One pass of the DEC_BLOCK loop of R208. -/
theorem decodeBlocks_of_readBenBlock {depth n : Nat} {strict : Bool} {bs rest : List Byte} {runs : List Run}
    {samples : List (List Half)} (hr : readBenBlock depth strict bs = .ok (runs, rest))
    (ht : totalLength runs ≤ maxWord) (hs : decodeBlocks depth strict n rest = .ok samples) :
    decodeBlocks depth strict (n + 1) bs = .ok (rleDecode runs :: samples) := by
  cases bs with
  | nil => cases hr
  | cons b bs => simp [decodeBlocks, hr, Nat.not_lt.2 ht, hs]

theorem decodeBlocks_flatMap_encodeBlock {depth : Nat} (strict : Bool) {samples : List (List Half)}
    (h : ∀ xs ∈ samples, encodable depth xs = true) {n : Nat} (hn : samples.length ≤ n) :
    decodeBlocks depth strict n (samples.flatMap fun xs => encodeBlock (sampleRuns xs)) = .ok samples := by
  induction samples generalizing n with
  | nil => cases n <;> rfl
  | cons xs samples ih =>
    obtain ⟨hxs, hrest⟩ := List.forall_mem_cons.1 h
    obtain ⟨hlen, -, hcount, -⟩ := encodable_iff.1 hxs
    obtain ⟨n, rfl⟩ : ∃ k, n = k + 1 := Nat.exists_eq_add_of_le' ((Nat.succ_pos _).trans_le hn)
    have hpass := decodeBlocks_of_readBenBlock (readBenBlock_encodeBlock hxs strict _)
      ((totalLength_sampleRuns hlen).trans_le hcount) (ih hrest (Nat.le_of_succ_le_succ hn))
    rwa [rleDecode_sampleRuns hlen] at hpass

theorem encodeBlock_length_pos (runs : List Run) : 1 ≤ (encodeBlock runs).length := by
  rw [encodeBlock_eq, List.length_append, hdrBytes_length]
  omega

/-- No block is empty, so the length of a file bounds the number of its blocks. -/
theorem length_le_length_encodeFile (samples : List (List Half)) : samples.length ≤ (encodeFile samples).length := by
  suffices h : samples.length ≤ (samples.flatMap fun xs => encodeBlock (sampleRuns xs)).length by
    rw [encodeFile, List.length_append]
    omega
  induction samples with
  | nil => exact Nat.le_refl 0
  | cons xs samples ih =>
    have hblock := encodeBlock_length_pos (sampleRuns xs)
    rw [List.flatMap_cons, List.length_append, List.length_cons]
    omega

/-- Settles O59: the magic is taken off, then each pass of the loop reads one block back. -/
theorem decodeFileUndoesEncodeFile : Obligations.DecodeFileUndoesEncodeFile := by
  intro samples depth strict h
  have hmagic : (encodeFile samples).take 17 = magic := List.take_left' magic_length
  have hblocks : (encodeFile samples).drop 17 = samples.flatMap fun xs => encodeBlock (sampleRuns xs) :=
    List.drop_left' magic_length
  rw [decodeFile, if_pos hmagic, hblocks]
  exact decodeBlocks_flatMap_encodeBlock strict h (length_le_length_encodeFile samples)

end Sys2Proof.Machine

/-! ## The magic commands (43_block_codec.md R204 to R206) -/

namespace Sys2Proof.Machine

open Sys2Proof

theorem writesBytes_nothing : WritesBytes .nothing (fun _ => []) [] := ⟨fun _ => rfl, rfl⟩

/-- Settles O27: the leading bytes of the plan are the magic, and no run follows. -/
theorem encMagicWritesTheMagic : Obligations.EncMagicWritesTheMagic := by
  rintro s ⟨he, hp, -⟩ hroom
  have hstart : exec .encMagic s = .next (s.enterOutput magicPlan) :=
    (runCommand_of_input he _).trans (emptyInput_start hp magicPlan)
  have hdone := completesTo_enterOutput (i := .encMagic) (plan := magicPlan) writesBytes_nothing
    (by rwa [List.length_append])
  exact (CompletesTo.head hstart hdone).exists_execSteps

theorem readsThenChecks_chkMagic {s : State} (he : s.eng = .busyInput) :
    ReadsThenChecks .chkMagic s 17 .formatError chkMagicContent :=
  fun rest pos => runCommand_of_input (s := (s.setIn rest).setPos pos) he _

theorem readsThenChecks_copyMagic {s : State} (he : s.eng = .busyInput) :
    ReadsThenChecks .copyMagic s 17 .formatError copyMagicContent :=
  fun rest pos => runCommand_of_input (s := (s.setIn rest).setPos pos) he _

theorem chkMagicContent_magic : chkMagicContent magic = .ok (silentPlan {}) := if_pos rfl

theorem copyMagicContent_magic : copyMagicContent magic = .ok magicPlan := if_pos rfl

/-- Settles O28. -/
theorem chkMagicAcceptsTheMagic : Obligations.ChkMagicAcceptsTheMagic := by
  rintro s rest ⟨he, hp, -⟩ hq
  have hread := (readsThenChecks_chkMagic he).reaches_enterOutput hp hq magic_length chkMagicContent_magic
  obtain ⟨t, hclose, hcomplete⟩ := exec_silentPlan .chkMagic (s.setIn rest) {}
  exact (CompletesTo.of_reaches hread (.head hclose (.of_exec hcomplete))).exists_execSteps

/-- Settles O29. -/
theorem copyMagicCopiesTheMagic : Obligations.CopyMagicCopiesTheMagic := by
  rintro s rest ⟨he, hp, -⟩ hq hroom
  exact (readsThenChecks_copyMagic he).completes hp hq magic_length copyMagicContent_magic writesBytes_nothing
    (List.append_nil magic).symm hroom

/-! ### Content that the checks refuse (R273, R274) -/

section

variable {i : Instr} {s : State} {n : Nat} {short : ErrorCode} {content : List Byte → Except ErrorCode Plan}

/-- The checks raise their error from a state with anything left in IN, which the error entry flushes. -/
theorem ReadsThenChecks.exec_refuse (hx : ReadsThenChecks i s n short content) (rest : List Byte) {got : List Byte}
    (h : n ≤ got.length) {e : ErrorCode} (hc : content got = .error e) :
    exec i (s.reading rest got) = .next (failedState s e) := by
  rw [State.reading, hx, countedInput_full rfl h, hc]
  rfl

/-- A counted command whose whole input is in IN and fails the content checks enters ERROR. -/
theorem ReadsThenChecks.fails (hx : ReadsThenChecks i s n short content) (hp : s.pos = .start) {bs rest : List Byte}
    (hq : s.inq = bs ++ rest) (hn : bs.length = n) {e : ErrorCode} (hc : content bs = .error e) :
    ∃ k, execSteps i k s = .next (failedState s e) := by
  have hstart := hx.exec_start hp
  rw [hq] at hstart
  exact (ExecReaches.head hstart
    ((hx.reaches_reading rest bs [] hn.le).trans (.head (hx.exec_refuse rest hn.ge hc) (.refl _)))).exists_execSteps

end

/-- Settles O42: 17 bytes are read whole, and the content check refuses them. -/
theorem wrongMagicRaisesFormatError : Obligations.WrongMagicRaisesFormatError := by
  rintro i s m rest (rfl | rfl) ⟨he, hp, -⟩ hm hq hne
  · exact (readsThenChecks_chkMagic he).fails hp hq hm (if_neg hne)
  · exact (readsThenChecks_copyMagic he).fails hp hq hm (if_neg hne)

end Sys2Proof.Machine

/-! ## ENC_BLOCK and DEC_BLOCK (43_block_codec.md R201 to R203) -/

namespace Sys2Proof.Machine

open Sys2Proof

/-! ### ENC_BLOCK (R201) -/

theorem encBlockContent_flatMap (l : Latch) {depth : Nat} {xs : List Half} (hlen : ∀ r ∈ rleEncode xs, r.2 ≤ 65535)
    (hdepth : (rleEncode xs).length ≤ depth) {runs : List Run} (hruns : runs = (rleEncode xs).map toRun)
    (hbl : byteLen runs.length (widths runs).1 (widths runs).2 ≤ maxWord) :
    encBlockContent l depth (xs.flatMap labelBytes) =
      .ok
        { runs := runs,
          lead := hdrBytes (widthByte (widths runs).1) (widthByte (widths runs).2)
            (countWord (byteLen runs.length (widths runs).1 (widths runs).2)),
          form := .packed (widths runs).1 (widths runs).2,
          upd :=
            { valueBits := some (widthByte (widths runs).1), lengthBits := some (widthByte (widths runs).2),
              byteLength := some (countWord (byteLen runs.length (widths runs).1 (widths runs).2)),
              runCount := some (countWord runs.length), labelCount := some l.count, block := true } } := by
  subst hruns
  simp only [encBlockContent, runsFromLabels_flatMap hlen hdepth, if_neg (Nat.not_lt.2 hbl)]

theorem readsThenChecks_encBlock {s : State} (he : s.eng = .busyInput) :
    ReadsThenChecks .encBlock s s.latch.labelInput .truncatedStream (encBlockContent s.latch s.params.runBufDepth) :=
  fun rest pos => runCommand_of_input (s := (s.setIn rest).setPos pos) he _

/-- Settles O35: the labels in IN are the counted input, and the plan of `encBlockContent` writes the header and the
payload of the runs with their own widths. -/
theorem encBlockWritesTheBlock : Obligations.EncBlockWritesTheBlock := by
  rintro s xs rest runs vb lb bl ⟨he, hp, -⟩ hcount hq hlen hdepth hruns hw rfl hbl hroom
  obtain ⟨rfl, rfl⟩ : vb = (widths runs).1 ∧ lb = (widths runs).2 := Prod.mk.inj hw
  have hnonzero : ∀ r ∈ runs, r.length ≠ 0 := hruns ▸ sampleRuns_length_ne_zero hlen
  refine (readsThenChecks_encBlock he).completes_packed hp hq ?_
    (encBlockContent_flatMap s.latch hlen hdepth hruns hbl) rfl (widthsLegal_widths hnonzero)
    (fun r hr => runFits_widths hr) ?_
  · rw [flatMap_labelBytes_length, Latch.labelInput, hcount]
  · rwa [List.length_append, hdrBytes_length, pack_length]

/-! ### The input phase of a BEN block (R202) -/

/-- The command `i` reads one BEN block, and checks its runs with `content`. -/
def ReadsBenBlock (i : Instr) (content : Payload → List Run → Except ErrorCode Plan) : Prop :=
  ∀ s : State, s.eng = .busyInput → exec i s = benBlockInput content s

/-- `s` inside the header of a block: the bytes `got` are read and `rest` is left in IN. -/
def State.readingHeader (s : State) (rest got : List Byte) : State := (s.setIn rest).setPos (.header got)

theorem benBlockInput_header_full {s : State} {got : List Byte} {p : Payload} (hp : s.pos = .header got)
    (h : 6 ≤ got.length) (hh : headerPayload got = some p) (content : Payload → List Run → Except ErrorCode Plan) :
    benBlockInput content s = .next (s.setPos (.payload p)) := by
  simp [benBlockInput, hp, Nat.not_lt.2 h, hh]

theorem headerPayload_hdrBytes (vb lb : Byte) (bl : Word) :
    headerPayload (hdrBytes vb lb bl) = some (Payload.begin vb lb bl) := by
  simp [hdrBytes, wordBytes, headerPayload, wordOf_bytes]

theorem atEnd_more {s : State} (h : s.inq ≠ []) (onMore onEnd : State → State) : s.atEnd onMore onEnd = onMore s := by
  obtain ⟨b, rest, hq⟩ := List.exists_cons_of_ne_nil h
  simp [State.atEnd, hq]

section

variable {i : Instr} {s : State} {content : Payload → List Run → Except ErrorCode Plan}

theorem ReadsBenBlock.exec_start (hx : ReadsBenBlock i content) (he : s.eng = .busyInput) (hp : s.pos = .start)
    (hq : s.inq ≠ []) : exec i s = .next (s.readingHeader s.inq []) := by
  rw [hx s he, benBlockInput_start hp, atEnd_more hq]
  rfl

theorem ReadsBenBlock.exec_take (hx : ReadsBenBlock i content) (he : s.eng = .busyInput) (b : Byte) (rest : List Byte)
    {got : List Byte} (h : got.length < 6) :
    exec i (s.readingHeader (b :: rest) got) = .next (s.readingHeader rest (got ++ [b])) := by
  rw [hx (s.readingHeader (b :: rest) got) he, benBlockInput_header_short rfl h, inRead_cons rfl]
  rfl

/-- The engine takes the header bytes one by one while they are in IN. -/
theorem ReadsBenBlock.reaches_readingHeader (hx : ReadsBenBlock i content) (he : s.eng = .busyInput)
    (rest : List Byte) :
    ∀ bs got : List Byte, (got ++ bs).length ≤ 6 →
      ExecReaches i (s.readingHeader (bs ++ rest) got) (s.readingHeader rest (got ++ bs))
  | [], got, _ => by rw [List.append_nil]; exact .refl _
  | b :: bs, got, hn => by
    have hshort : got.length < 6 := by
      rw [List.length_append, List.length_cons] at hn
      omega
    rw [List.append_cons] at hn ⊢
    exact .head (hx.exec_take he b (bs ++ rest) hshort) (hx.reaches_readingHeader he rest bs (got ++ [b]) hn)

/-- The unpacker begins with the accumulator that acceptance left empty. -/
theorem ReadsBenBlock.exec_header (hx : ReadsBenBlock i content) (hs : Accepted s) (rest : List Byte) (vb lb : Byte)
    (bl : Word) :
    exec i (s.readingHeader rest (hdrBytes vb lb bl)) = .next (s.unpacking rest (unpackBytes vb lb bl [])) := by
  obtain ⟨he, -, hacc, hn, -⟩ := hs
  have hempty : (s.readingHeader rest (hdrBytes vb lb bl)).setPos (.payload (Payload.begin vb lb bl)) =
      s.unpacking rest (Payload.begin vb lb bl, s.acc, s.accN) := rfl
  rw [hx (s.readingHeader rest (hdrBytes vb lb bl)) he,
    benBlockInput_header_full rfl (hdrBytes_length vb lb bl).ge (headerPayload_hdrBytes vb lb bl), hempty, hacc, hn]
  rfl

theorem ReadsBenBlock.readsPayload (hx : ReadsBenBlock i content) (he : s.eng = .busyInput) :
    ReadsPayload i s content := by
  intro rest r
  rw [hx (s.unpacking rest r) he, benBlockInput_payload rfl]

theorem ReadsBenBlock.reaches_payload (hx : ReadsBenBlock i content) (hs : Accepted s) {vb lb : Byte} {bl : Word}
    {rest : List Byte} (hq : s.inq = hdrBytes vb lb bl ++ rest) :
    ExecReaches i s (s.unpacking rest (unpackBytes vb lb bl [])) := by
  have hmore : s.inq ≠ [] := by
    rw [hq]
    exact nofun
  have hstart := hx.exec_start hs.1 hs.2.1 hmore
  rw [hq] at hstart
  exact .head hstart ((hx.reaches_readingHeader hs.1 rest (hdrBytes vb lb bl) [] le_rfl).trans
    (.head (hx.exec_header hs rest vb lb bl) (.refl _)))

/-- A block that is in IN whole and unpacks to runs that fit the run buffer leads to the plan of its runs. -/
theorem ReadsBenBlock.reaches_enterOutput (hx : ReadsBenBlock i content) (hs : Accepted s) {vb lb : Byte} {bl : Word}
    {P rest : List Byte} (hP : bl.toNat = P.length) (hq : s.inq = hdrBytes vb lb bl ++ P ++ rest) {runs : List Run}
    (hu : unpack P vb.toNat lb.toNat s.latch.strict = .ok runs) (hd : runs.length ≤ s.params.runBufDepth) {plan : Plan}
    (hc : ∀ p : Payload, p.vb = vb → p.lb = lb → p.bl = bl → content p runs = .ok plan) :
    ExecReaches i s ((s.setIn rest).enterOutput plan) := by
  rw [List.append_assoc] at hq
  exact (hx.reaches_payload hs hq).trans ((hx.readsPayload hs.1).reaches_enterOutput hP rest hu hd hc)

end

/-! ### DEC_BLOCK (R203) -/

theorem readsBenBlock_decBlock : ReadsBenBlock .decBlock decBlockContent := fun _ he => runCommand_of_input he _

theorem decBlockContent_of_le {runs : List Run} (htotal : totalLength runs ≤ maxWord) (p : Payload) :
    decBlockContent p runs =
      .ok
        { runs := runs, lead := [], form := .labels,
          upd :=
            { valueBits := some p.vb, lengthBits := some p.lb, byteLength := some p.bl,
              runCount := some (countWord runs.length), labelCount := some (countWord (totalLength runs)),
              block := true } } := if_neg (Nat.not_lt.2 htotal)

/-- Settles O36: the header in IN gives the payload position, the payload is read through the unpacker, and the plan of
`decBlockContent` writes labels. -/
theorem decBlockWritesTheLabels : Obligations.DecBlockWritesTheLabels := by
  intro s vb lb bl P rest runs hs hP hq hu hdepth htotal hroom
  have hread := readsBenBlock_decBlock.reaches_enterOutput hs hP hq hu hdepth
    fun p hvb hlb hbl => hvb ▸ hlb ▸ hbl ▸ decBlockContent_of_le htotal p
  have hdone := completesTo_enterOutput (i := .decBlock) (s := s.setIn rest)
    (plan :=
      { runs := runs, lead := [], form := .labels,
        upd :=
          { valueBits := some vb, lengthBits := some lb, byteLength := some bl,
            runCount := some (countWord runs.length), labelCount := some (countWord (totalLength runs)),
            block := true } })
    writesBytes_labels (by
      rwa [List.nil_append, List.append_nil, List.length_append, flatMap_runLabelBytes, flatMap_labelBytes_length,
        rleDecode_length])
  rw [List.nil_append, List.append_nil, flatMap_runLabelBytes] at hdone
  exact (CompletesTo.of_reaches hread hdone).exists_execSteps

end Sys2Proof.Machine

/-! ## The Ben32Transcoder commands that write a Ben32Block (44_ben32.md R230, R232, R234, R235) -/

namespace Sys2Proof.Machine

open Sys2Proof

/-! ### The bytes of a Ben32Block (R230) -/

theorem writesBytes_ben32 : WritesBytes .ben32 recBytes sentinel := ⟨fun _ => rfl, rfl⟩

/-- R127: a command whose input phase consumed its input and left a plan without packed fields writes the bytes of that
plan. -/
theorem ExecReaches.completes {i : Instr} {s : State} {rest : List Byte} {plan : Plan}
    (h : ExecReaches i s ((s.setIn rest).enterOutput plan)) {bytes : Run → List Byte} {closing out : List Byte}
    (hf : WritesBytes plan.form bytes closing) (hout : out = plan.lead ++ (plan.runs.flatMap bytes ++ closing))
    (hroom : s.outq.length + out.length ≤ s.params.outDepth) :
    ∃ k u, execSteps i k s = .next u ∧ exec i u = .next (completedState s rest out plan.runs plan.upd) := by
  subst hout
  exact (CompletesTo.of_reaches h
    (completesTo_enterOutput (s := s.setIn rest) hf (by rwa [List.length_append]))).exists_execSteps

/-- R127: the same for a plan with packed fields. -/
theorem ExecReaches.completes_packed {i : Instr} {s : State} {rest : List Byte} {plan : Plan}
    (h : ExecReaches i s ((s.setIn rest).enterOutput plan)) {vb lb : Nat} (hf : plan.form = .packed vb lb)
    (hw : widthsLegal vb lb = true) (hfit : ∀ r ∈ plan.runs, runFits vb lb r)
    (hroom : s.outq.length + (plan.lead ++ pack plan.runs vb lb).length ≤ s.params.outDepth) :
    ∃ k u, execSteps i k s = .next u ∧
      exec i u = .next (completedState s rest (plan.lead ++ pack plan.runs vb lb) plan.runs plan.upd) :=
  (CompletesTo.of_reaches h (completesTo_enterOutput_packed (s := s.setIn rest) hf hw hfit hroom)).exists_execSteps

/-! ### RUNS_TO_BEN32 (R232) -/

theorem runsToBen32Content_flatMap (l : Latch) {runs : List Run} (hlen : ∀ r ∈ runs, r.length ≠ 0) :
    runsToBen32Content l (runs.flatMap recBytes) =
      .ok { runs := runs, lead := [], form := .ben32, upd := { runCount := some l.count, block := true } } := by
  simp [runsToBen32Content, recordsOf_flatMap, hasZeroLength_eq_false hlen]

theorem readsThenChecks_runsToBen32 {s : State} (he : s.eng = .busyInput)
    (hdepth : s.latch.count.toNat ≤ s.params.runBufDepth) :
    ReadsThenChecks .runsToBen32 s s.latch.recordInput .truncatedStream (runsToBen32Content s.latch) := by
  intro rest pos
  rw [← checkCount_of_le hdepth]
  exact runCommand_of_input (s := (s.setIn rest).setPos pos) he _

/-- Settles O37: the run records in IN are the counted input, and the plan of `runsToBen32Content` writes a
Ben32Block. -/
theorem runsToBen32WritesTheBlock : Obligations.RunsToBen32WritesTheBlock := by
  rintro s runs rest ⟨he, hp, -⟩ hcount hq hdepth hlen hroom
  refine (readsThenChecks_runsToBen32 he (hcount.trans_le hdepth)).completes hp hq ?_
    (runsToBen32Content_flatMap s.latch hlen) writesBytes_ben32 rfl ?_
  · rw [flatMap_recBytes_length, Latch.recordInput, hcount]
  · rw [← ben32Block_length] at hroom
    exact hroom

/-! ### ENC_BEN32 (R234) -/

theorem encBen32Content_flatMap (l : Latch) {depth : Nat} {xs : List Half} (hlen : ∀ r ∈ rleEncode xs, r.2 ≤ 65535)
    (hdepth : (rleEncode xs).length ≤ depth) {runs : List Run} (hruns : runs = (rleEncode xs).map toRun) :
    encBen32Content l depth (xs.flatMap labelBytes) =
      .ok
        { runs := runs, lead := [], form := .ben32,
          upd := { runCount := some (countWord runs.length), labelCount := some l.count, block := true } } := by
  subst hruns
  simp only [encBen32Content, runsFromLabels_flatMap hlen hdepth]

theorem readsThenChecks_encBen32 {s : State} (he : s.eng = .busyInput) :
    ReadsThenChecks .encBen32 s s.latch.labelInput .truncatedStream (encBen32Content s.latch s.params.runBufDepth) :=
  fun rest pos => runCommand_of_input (s := (s.setIn rest).setPos pos) he _

/-- Settles O39: the labels in IN are the counted input, and the plan of `encBen32Content` writes the Ben32Block of
their runs. -/
theorem encBen32WritesTheBlock : Obligations.EncBen32WritesTheBlock := by
  rintro s xs rest runs ⟨he, hp, -⟩ hcount hq hlen hdepth hruns hroom
  refine (readsThenChecks_encBen32 he).completes hp hq ?_ (encBen32Content_flatMap s.latch hlen hdepth hruns)
    writesBytes_ben32 rfl ?_
  · rw [flatMap_labelBytes_length, Latch.labelInput, hcount]
  · rw [← ben32Block_length] at hroom
    exact hroom

/-! ### BLOCK_TO_BEN32 (R235) -/

theorem readsBenBlock_blockToBen32 : ReadsBenBlock .blockToBen32 blockToBen32Content :=
  fun _ he => runCommand_of_input he _

theorem blockToBen32Content_of_header {p : Payload} {vb lb : Byte} {bl : Word} (hvb : p.vb = vb) (hlb : p.lb = lb)
    (hbl : p.bl = bl) (runs : List Run) :
    blockToBen32Content p runs =
      .ok
        { runs := runs, lead := [], form := .ben32,
          upd :=
            { valueBits := some vb, lengthBits := some lb, byteLength := some bl,
              runCount := some (countWord runs.length), block := true } } := by
  rw [← hvb, ← hlb, ← hbl]
  rfl

/-- Settles O40: the BEN block in IN is read as DEC_BLOCK reads it, and the plan of `blockToBen32Content` writes the
Ben32Block of its runs. -/
theorem blockToBen32Transcodes : Obligations.BlockToBen32Transcodes := by
  intro s vb lb bl P rest runs hs hP hq hu hdepth hroom
  have hread := readsBenBlock_blockToBen32.reaches_enterOutput hs hP hq hu hdepth
    fun _ hvb hlb hbl => blockToBen32Content_of_header hvb hlb hbl runs
  rw [← ben32Block_length] at hroom
  exact hread.completes writesBytes_ben32 rfl hroom

end Sys2Proof.Machine

/-! ## The Ben32Transcoder commands that read a Ben32Block (44_ben32.md R231, R233, R236) -/

namespace Sys2Proof.Machine

open Sys2Proof

/-! ### The words of a Ben32Block (R231, R238) -/

theorem wordOf_toNat (a b c d : Byte) :
    (wordOf a b c d).toNat = ((a.toNat <<< 8 ||| b.toNat) <<< 8 ||| c.toNat) <<< 8 ||| d.toNat := by
  rw [wordOf, BitVec.toNat_append, BitVec.toNat_append, BitVec.toNat_append]

theorem wordOf_eq_zero_iff (a b c d : Byte) : wordOf a b c d = 0 ↔ [a, b, c, d] = sentinel := by
  rw [← BitVec.toNat_inj, wordOf_toNat]
  simp [sentinel, Nat.or_eq_zero_iff, Nat.shiftLeft_eq_zero_iff, and_assoc, ← BitVec.toNat_inj]

/-- R238, law 1: the record of a run with labels is not the sentinel. -/
theorem recBytes_ne_sentinel {r : Run} (h : r.length ≠ 0) : recBytes r ≠ sentinel := by
  intro hz
  have hrecord : recordsOf (recBytes r ++ []) = recordsOf (sentinel ++ []) := by rw [hz]
  rw [recordsOf_recBytes] at hrecord
  obtain rfl : r = ⟨0, 0⟩ := List.head_eq_of_cons_eq hrecord
  exact h rfl

theorem ben32Input_record {s : State} {r : Run} {runs : List Run} (hp : s.pos = .words (recBytes r) runs)
    (h : recBytes r ≠ sentinel) (content : List Run → Except ErrorCode Plan) :
    ben32Input content s = .next (s.setPos (.words [] (runs ++ [r]))) := by
  have hword := mt (wordOf_eq_zero_iff _ _ _ _).1 h
  simp only [ben32Input, hp, recBytes, labelBytes, List.cons_append, List.nil_append, if_neg hword, halfOf_bytes]

theorem ben32Input_sentinel {s : State} {runs : List Run} (hp : s.pos = .words sentinel runs)
    (hc : ben32Check s.latch.strict s.params.runBufDepth runs = none) (content : List Run → Except ErrorCode Plan) :
    ben32Input content s = .next (s.conclude (content runs)) := by
  have hword : wordOf 0 0 0 0 = 0 := (wordOf_eq_zero_iff 0 0 0 0).2 rfl
  simp only [ben32Input, hp, sentinel, if_pos hword, hc]

theorem ben32Check_eq_none {strict : Bool} {depth : Nat} {runs : List Run} (hlen : ∀ r ∈ runs, r.length ≠ 0)
    (hmax : strict = true → maximalRuns runs = true) (hdepth : runs.length ≤ depth) :
    ben32Check strict depth runs = none := by
  have hzero : (runs.any fun r => r.length == 0) = false := hasZeroLength_eq_false hlen
  have hstrict : (strict && !maximalRuns runs) = false := by
    cases strict with
    | false => rfl
    | true => rw [hmax rfl]; rfl
  simp only [ben32Check, hzero, hstrict, if_neg (Nat.not_lt.2 hdepth), Bool.false_eq_true, if_false]

/-! ### The input phase of a Ben32Block (R231) -/

/-- The command `i` reads one Ben32Block, and checks its runs with `content`. -/
def ReadsBen32 (i : Instr) (content : List Run → Except ErrorCode Plan) : Prop :=
  ∀ s : State, s.eng = .busyInput → exec i s = ben32Input content s

/-- `s` inside a Ben32Block: the runs `runs` and the bytes `part` of the next word are read, and `rest` is left in
IN. -/
def State.readingWord (s : State) (rest part : List Byte) (runs : List Run) : State :=
  (s.setIn rest).setPos (.words part runs)

section

variable {i : Instr} {s : State} {content : List Run → Except ErrorCode Plan}

theorem ReadsBen32.exec_start (hx : ReadsBen32 i content) (he : s.eng = .busyInput) (hp : s.pos = .start)
    (hq : s.inq ≠ []) : exec i s = .next (s.readingWord s.inq [] []) := by
  rw [hx s he, ben32Input_start hp, atEnd_more hq]
  rfl

theorem ReadsBen32.exec_take (hx : ReadsBen32 i content) (he : s.eng = .busyInput) (b : Byte) (rest : List Byte)
    {part : List Byte} (runs : List Run) (h : part.length < 4) :
    exec i (s.readingWord (b :: rest) part runs) = .next (s.readingWord rest (part ++ [b]) runs) := by
  rw [hx (s.readingWord (b :: rest) part runs) he, ben32Input_words_short rfl h, inRead_cons rfl]
  rfl

theorem ReadsBen32.exec_record (hx : ReadsBen32 i content) (he : s.eng = .busyInput) (rest : List Byte) {r : Run}
    (runs : List Run) (h : recBytes r ≠ sentinel) :
    exec i (s.readingWord rest (recBytes r) runs) = .next (s.readingWord rest [] (runs ++ [r])) := by
  rw [hx (s.readingWord rest (recBytes r) runs) he, ben32Input_record rfl h]
  rfl

theorem ReadsBen32.exec_sentinel (hx : ReadsBen32 i content) (he : s.eng = .busyInput) (rest : List Byte)
    {runs : List Run} (hck : ben32Check s.latch.strict s.params.runBufDepth runs = none) {plan : Plan}
    (hc : content runs = .ok plan) :
    exec i (s.readingWord rest sentinel runs) = .next ((s.setIn rest).enterOutput plan) := by
  rw [hx (s.readingWord rest sentinel runs) he, ben32Input_sentinel (s := s.readingWord rest sentinel runs) rfl hck, hc]
  rfl

/-- The engine takes the bytes of a word one by one while they are in IN. -/
theorem ReadsBen32.reaches_readingWord (hx : ReadsBen32 i content) (he : s.eng = .busyInput) (rest : List Byte)
    (runs : List Run) :
    ∀ bs part : List Byte, (part ++ bs).length ≤ 4 →
      ExecReaches i (s.readingWord (bs ++ rest) part runs) (s.readingWord rest (part ++ bs) runs)
  | [], part, _ => by rw [List.append_nil]; exact .refl _
  | b :: bs, part, hn => by
    have hshort : part.length < 4 := by
      rw [List.length_append, List.length_cons] at hn
      omega
    rw [List.append_cons] at hn ⊢
    exact .head (hx.exec_take he b (bs ++ rest) runs hshort)
      (hx.reaches_readingWord he rest runs bs (part ++ [b]) hn)

/-- The records before the sentinel are taken up one by one. -/
theorem ReadsBen32.reaches_records (hx : ReadsBen32 i content) (he : s.eng = .busyInput) (rest : List Byte)
    {runs : List Run} (hrec : ∀ r ∈ runs, recBytes r ≠ sentinel) (found : List Run) :
    ExecReaches i (s.readingWord (runs.flatMap recBytes ++ rest) [] found)
      (s.readingWord rest [] (found ++ runs)) := by
  induction runs generalizing found with
  | nil => rw [List.append_nil]; exact .refl _
  | cons r runs ih =>
    obtain ⟨hr, hrest⟩ := List.forall_mem_cons.1 hrec
    rw [List.flatMap_cons, List.append_assoc, List.append_cons found]
    exact (hx.reaches_readingWord he _ found (recBytes r) [] le_rfl).trans
      (.head (hx.exec_record he _ found hr) (ih hrest (found ++ [r])))

/-- A Ben32Block that is in IN whole is read up to its sentinel, before any check. -/
theorem ReadsBen32.reaches_sentinel (hx : ReadsBen32 i content) (he : s.eng = .busyInput) (hp : s.pos = .start)
    {runs : List Run} {rest : List Byte} (hq : s.inq = ben32Block runs ++ rest)
    (hrec : ∀ r ∈ runs, recBytes r ≠ sentinel) : ExecReaches i s (s.readingWord rest sentinel runs) := by
  rw [ben32Block, List.append_assoc] at hq
  have hmore : s.inq ≠ [] := by simp [hq, sentinel]
  have hstart := hx.exec_start he hp hmore
  rw [hq] at hstart
  exact .head hstart ((hx.reaches_records he (sentinel ++ rest) hrec []).trans
    (hx.reaches_readingWord he rest runs sentinel [] le_rfl))

/-- A Ben32Block that is in IN whole and passes the checks of R231 leads to the plan of its runs. -/
theorem ReadsBen32.reaches_enterOutput (hx : ReadsBen32 i content) (hs : Accepted s) {runs : List Run}
    {rest : List Byte} (hq : s.inq = ben32Block runs ++ rest) (hlen : ∀ r ∈ runs, r.length ≠ 0)
    (hmax : s.latch.strict = true → maximalRuns runs = true) (hdepth : runs.length ≤ s.params.runBufDepth)
    {plan : Plan} (hc : content runs = .ok plan) : ExecReaches i s ((s.setIn rest).enterOutput plan) := by
  obtain ⟨he, hp, -⟩ := hs
  have hrec : ∀ r ∈ runs, recBytes r ≠ sentinel := fun r hr => recBytes_ne_sentinel (hlen r hr)
  exact (hx.reaches_sentinel he hp hq hrec).trans
    (.head (hx.exec_sentinel he rest (ben32Check_eq_none hlen hmax hdepth) hc) (.refl _))

end

/-! ### BEN32_TO_RUNS (R233) -/

theorem readsBen32_ben32ToRuns : ReadsBen32 .ben32ToRuns ben32ToRunsContent := fun _ he => runCommand_of_input he _

/-- Settles O38: the Ben32Block in IN is read word by word, and the plan of `ben32ToRunsContent` writes run records. -/
theorem ben32ToRunsWritesTheRunRecords : Obligations.Ben32ToRunsWritesTheRunRecords := by
  intro s runs rest hs hq hlen hmax hdepth hroom
  have hread := readsBen32_ben32ToRuns.reaches_enterOutput hs hq hlen hmax hdepth rfl
  exact hread.completes writesBytes_records (List.append_nil _).symm (by rwa [flatMap_recBytes_length])

/-! ### BEN32_TO_BLOCK (R236) -/

theorem readsBen32_ben32ToBlock : ReadsBen32 .ben32ToBlock ben32ToBlockContent := fun _ he => runCommand_of_input he _

theorem ben32ToBlockContent_of_le {runs : List Run}
    (hbl : byteLen runs.length (widths runs).1 (widths runs).2 ≤ maxWord) :
    ben32ToBlockContent runs =
      .ok
        { runs := runs,
          lead := hdrBytes (widthByte (widths runs).1) (widthByte (widths runs).2)
            (countWord (byteLen runs.length (widths runs).1 (widths runs).2)),
          form := .packed (widths runs).1 (widths runs).2,
          upd :=
            { valueBits := some (widthByte (widths runs).1), lengthBits := some (widthByte (widths runs).2),
              byteLength := some (countWord (byteLen runs.length (widths runs).1 (widths runs).2)),
              runCount := some (countWord runs.length), block := true } } := if_neg (Nat.not_lt.2 hbl)

/-- Settles O41: the Ben32Block in IN is read word by word, and the plan of `ben32ToBlockContent` writes the header and
the payload of its runs with their own widths. -/
theorem ben32ToBlockTranscodes : Obligations.Ben32ToBlockTranscodes := by
  rintro s runs rest vb lb bl hs hq hlen hmax hdepth hw rfl hbl hroom
  obtain ⟨rfl, rfl⟩ : vb = (widths runs).1 ∧ lb = (widths runs).2 := Prod.mk.inj hw
  have hread := readsBen32_ben32ToBlock.reaches_enterOutput hs hq hlen hmax hdepth (ben32ToBlockContent_of_le hbl)
  exact hread.completes_packed rfl (widthsLegal_widths hlen) (fun r hr => runFits_widths hr)
    (by rwa [List.length_append, hdrBytes_length, pack_length])

end Sys2Proof.Machine

/-! ## Operand checks, error entry and the ways out of ERROR (60_exceptions.md R273, R274, R277) -/

namespace Sys2Proof.Machine

open Sys2Proof

/-! ### The operand checks that fail (R274 tier 1) -/

theorem widthsLegal_eq_false_iff (vb lb : Nat) :
    widthsLegal vb lb = false ↔ vb < 1 ∨ 16 < vb ∨ lb < 1 ∨ 16 < lb := by
  rw [← Bool.not_eq_true, widthsLegal_iff]
  omega

theorem checkCount_of_lt {l : Latch} {depth : Nat} (h : depth < l.count.toNat) :
    checkCount l depth = some .runBufferFull := if_pos h

theorem checkPackOperands_of_illegal {l : Latch} (hw : widthsLegal l.vb.toNat l.lb.toNat = false) (depth : Nat) :
    checkPackOperands l depth = some .widthError := if_pos hw

theorem checkPackOperands_of_lt {l : Latch} {depth : Nat} (hw : widthsLegal l.vb.toNat l.lb.toNat = true)
    (h : depth < l.count.toNat) : checkPackOperands l depth = some .runBufferFull := by
  rw [checkPackOperands, if_neg (by simp [hw]), checkCount_of_lt h]

theorem countedInput_refuse {s : State} {operands : Option ErrorCode} {e : ErrorCode} (hp : s.pos = .start)
    (he : operands = some e) (n : Nat) (short : ErrorCode) (content : List Byte → Except ErrorCode Plan) :
    countedInput operands n short content s = .next (failedState s e) := by
  simp only [countedInput, hp, he]
  rfl

theorem payloadInput_refuse {s : State} (hp : s.pos = .start)
    (hw : widthsLegal s.latch.vb.toNat s.latch.lb.toNat = false)
    (content : Payload → List Run → Except ErrorCode Plan) :
    payloadInput content s = .next (failedState s .widthError) := by
  simp only [payloadInput, hp, hw]
  rfl

section

variable {s : State} (hs : Accepted s)

include hs

theorem exec_pack_refuse {e : ErrorCode} (h : checkPackOperands s.latch s.params.runBufDepth = some e) :
    exec .pack s = .next (failedState s e) :=
  (runCommand_of_input hs.1 _).trans (countedInput_refuse hs.2.1 h _ _ _)

theorem exec_unpack_refuse (hw : widthsLegal s.latch.vb.toNat s.latch.lb.toNat = false) :
    exec .unpack s = .next (failedState s .widthError) :=
  (exec_unpack hs.1).trans (payloadInput_refuse hs.2.1 hw _)

theorem exec_rleDec_refuse (h : s.params.runBufDepth < s.latch.count.toNat) :
    exec .rleDec s = .next (failedState s .runBufferFull) :=
  (runCommand_of_input hs.1 _).trans (countedInput_refuse hs.2.1 (checkCount_of_lt h) _ _ _)

theorem exec_runsToBen32_refuse (h : s.params.runBufDepth < s.latch.count.toNat) :
    exec .runsToBen32 s = .next (failedState s .runBufferFull) :=
  (runCommand_of_input hs.1 _).trans (countedInput_refuse hs.2.1 (checkCount_of_lt h) _ _ _)

end

/-- Settles O47. -/
theorem operandChecksComeBeforeInput : Obligations.OperandChecksComeBeforeInput := by
  intro s hs badWidths tooMany
  have hillegal : badWidths → widthsLegal s.latch.vb.toNat s.latch.lb.toNat = false :=
    (widthsLegal_eq_false_iff _ _).2
  have hlegal : ¬ badWidths → widthsLegal s.latch.vb.toNat s.latch.lb.toNat = true := fun h => by
    rwa [← Bool.not_eq_false, widthsLegal_eq_false_iff]
  exact ⟨fun h => exec_pack_refuse hs (checkPackOperands_of_illegal (hillegal h) _),
    fun h => exec_unpack_refuse hs (hillegal h),
    fun h hc => exec_pack_refuse hs (checkPackOperands_of_lt (hlegal h) hc),
    exec_rleDec_refuse hs, exec_runsToBen32_refuse hs⟩

/-! ### Error entry (R273) -/

theorem InputStep.raise_of_error {s t : State} (h : InputStep s t) (he : s.eng = .busyInput) (ht : t.eng = .error) :
    ∃ e, t = s.raise e := by
  have hne : s.eng ≠ .error := by simp [he]
  cases h with
  | raise e h => exact ⟨e, h⟩
  | wait h => subst h; exact absurd ht hne
  | move p h => subst h; exact absurd ht hne
  | take b rest p acc n hq h => subst h; exact absurd ht hne
  | leave p h => subst h; cases ht
  | atEnd hq heof h => subst h; cases ht

/-- Settles O11: of the shapes of a step only the raise of an input step ends in ERROR. -/
theorem errorEntryChangesOnlyWhatR273Lists : Obligations.ErrorEntryChangesOnlyWhatR273Lists := by
  intro i s t hx hs ht
  rcases exec_cases hx with ⟨-, rfl⟩ | ⟨he, hst⟩ | ⟨he, o, -, rfl⟩
  · exact absurd ht hs
  · exact ⟨he, hst.raise_of_error he ht⟩
  · obtain ⟨-, -, hne, -⟩ := writeStep_frame he o
    exact absurd ht hne

/-! ### The ways out of ERROR (R276, R277) -/

theorem readReg_eng (s : State) (r : Reg) : (s.readReg r).eng = s.eng := by
  cases r <;> rfl

theorem writeReg_eng_of_error {s : State} (he : s.eng = .error) {r : Reg} {v : Word}
    (h : r = .ctrl → v.getLsbD 1 = false) : (s.writeReg r v).eng = .error := by
  cases r with
  | ctrl =>
    have hfields : s.writeReg .ctrl v = s.writeCtrlFields v := writeCtrl_without_abort (h rfl)
    rw [hfields]
    exact he
  | cmd =>
    have hdrop : s.writeReg .cmd v = s.overrun := writeCmd_of_ne_idle (by simp [he]) v
    rw [hdrop]
    exact he
  | inData =>
    have hdrop : s.writeReg .inData v = s := writeInData_of_error he v
    rw [hdrop]
    exact he
  | valueBits | lengthBits | byteLength | count | blockCount =>
    exact (apply_ite State.eng _ _ _).trans (by rw [he]; exact ite_self _)
  | _ => exact he

/-- A host access that leaves ERROR is a CTRL write with bit 1, and its effect is the abort (R133). -/
theorem hostTurn_leaves_error {s t : State} {a : Access} (hx : hostTurn s a = .next t) (he : s.eng = .error)
    (ht : t.eng ≠ .error) : t = s.abort ∧ ∃ v, a = .write (s.params.base + 4) 4 v ∧ v.getLsbD 1 = true := by
  rcases hostTurn_cases s a with ⟨why, -, hs⟩ | ⟨addr, n, -, -, hs⟩ | ⟨addr, n, v, rfl, hp, hs⟩ <;> rw [hs] at hx <;>
    cases hx
  · exact absurd ((readReg_eng s _).trans he) ht
  · obtain ⟨hctrl, hv⟩ : regAt (addr - s.params.base) = .ctrl ∧ v.getLsbD 1 = true := by
      by_contra hno
      exact ht (writeReg_eng_of_error he fun hctrl => by simpa [hctrl] using hno)
    obtain ⟨hn, hlow, -, -⟩ := (problem_eq_none_iff _ _).1 hp
    obtain rfl : n = 4 := hn
    obtain rfl : addr = s.params.base + 4 := by
      have hoff := regAt_eq_ctrl hctrl
      simp only [Access.addr] at hlow
      omega
    rw [hctrl]
    exact ⟨writeCtrl_of_abort s hv, v, rfl, hv⟩

/-- Settles O14: in ERROR the engine takes no step, and of the host's accesses only the abort leaves it. -/
theorem onlyAbortAndResetLeaveError : Obligations.OnlyAbortAndResetLeaveError := by
  intro s t hx he ht
  have hstay : ∀ u : State, u.eng = .error → engineTurn u = .next t → False := fun u hu hxu => by
    rw [engineTurn_of_not_busy (by rw [hu]; rfl)] at hxu
    cases hxu
    exact ht hu
  rcases step_cases s with ⟨-, hs⟩ | ⟨ts, -, hs⟩ | ⟨a, ts, hturn, hs⟩ | ⟨ts, hturn, hs⟩ <;> rw [hs] at hx
  · exact (hstay s he hx).elim
  · exact (hstay (s.setTurns ts) he hx).elim
  · obtain ⟨rfl, v, rfl, hv⟩ := hostTurn_leaves_error (s := s.setTurns ts) hx he ht
    exact ⟨rfl, rfl, rfl, rfl, .inr ⟨ts, v, hturn, hv⟩⟩
  · cases hx
    exact ⟨rfl, rfl, rfl, rfl, .inl ⟨ts, hturn⟩⟩

end Sys2Proof.Machine

/-! ## No step faults under the invariant (60_exceptions.md R260, R281) -/

namespace Sys2Proof.Machine

open Sys2Proof

/-! ### The ends of the input phases, as equations (R178, R231) -/

section

variable {s : State} {p : Payload}

theorem payloadStep_error {e : ErrorCode} (hl : p.left = 0) (hu : p.unpacked s.latch.strict s.acc s.accN = .error e)
    (content : Payload → List Run → Except ErrorCode Plan) : payloadStep content s p = s.raise e := by
  simp [payloadStep, hl, hu]

theorem payloadStep_full {runs : List Run} (hl : p.left = 0)
    (hu : p.unpacked s.latch.strict s.acc s.accN = .ok runs) (hd : s.params.runBufDepth < runs.length)
    (content : Payload → List Run → Except ErrorCode Plan) : payloadStep content s p = s.raise .runBufferFull := by
  simp [payloadStep, hl, hu, hd]

variable {a b c d : Byte} {runs : List Run}

theorem ben32Input_word (hp : s.pos = .words [a, b, c, d] runs) (hz : wordOf a b c d ≠ 0)
    (content : List Run → Except ErrorCode Plan) :
    ben32Input content s = .next (s.setPos (.words [] (runs ++ [⟨halfOf a b, halfOf c d⟩]))) := by
  simp only [ben32Input, hp, if_neg hz]

theorem ben32Input_refuse {e : ErrorCode} (hp : s.pos = .words [a, b, c, d] runs) (hz : wordOf a b c d = 0)
    (hc : ben32Check s.latch.strict s.params.runBufDepth runs = some e)
    (content : List Run → Except ErrorCode Plan) : ben32Input content s = .next (s.raise e) := by
  simp only [ben32Input, hp, if_pos hz, hc]

theorem ben32Input_conclude (hp : s.pos = .words [a, b, c, d] runs) (hz : wordOf a b c d = 0)
    (hc : ben32Check s.latch.strict s.params.runBufDepth runs = none) (content : List Run → Except ErrorCode Plan) :
    ben32Input content s = .next (s.conclude (content runs)) := by
  simp only [ben32Input, hp, if_pos hz, hc]

end

/-! ### The positions of each kind of input phase -/

section

variable {s : State}

theorem countedInput_next (operands : Option ErrorCode) (n : Nat) (short : ErrorCode)
    (content : List Byte → Except ErrorCode Plan) (hp : s.pos = .start ∨ ∃ got, s.pos = .bytes got) :
    ∃ t, countedInput operands n short content s = .next t := by
  rcases hp with hp | ⟨got, hp⟩
  · cases operands with
    | some e => exact ⟨_, countedInput_refuse hp rfl n short content⟩
    | none => exact ⟨_, countedInput_start hp n short content⟩
  · rcases Nat.lt_or_ge got.length n with hn | hn
    · exact ⟨_, countedInput_short hp hn operands short content⟩
    · exact ⟨_, countedInput_full hp hn operands short content⟩

theorem payloadInput_next (content : Payload → List Run → Except ErrorCode Plan)
    (hp : s.pos = .start ∨ ∃ p, s.pos = .payload p) : ∃ t, payloadInput content s = .next t := by
  rcases hp with hp | ⟨p, hp⟩
  · cases hw : widthsLegal s.latch.vb.toNat s.latch.lb.toNat with
    | false => exact ⟨_, payloadInput_refuse hp hw content⟩
    | true => exact ⟨_, payloadInput_start hp hw content⟩
  · exact ⟨_, payloadInput_payload hp content⟩

theorem exists_headerPayload {h : List Byte} (hn : h.length = 6) : ∃ p, headerPayload h = some p := by
  match h, hn with
  | [a, b, c, d, e, f], _ => exact ⟨_, rfl⟩

theorem benBlockInput_next (content : Payload → List Run → Except ErrorCode Plan)
    (hp : s.pos = .start ∨ (∃ got, s.pos = .header got ∧ got.length ≤ 6) ∨ ∃ p, s.pos = .payload p) :
    ∃ t, benBlockInput content s = .next t := by
  rcases hp with hp | ⟨got, hp, hn⟩ | ⟨p, hp⟩
  · exact ⟨_, benBlockInput_start hp content⟩
  · rcases hn.lt_or_eq with hn | hn
    · exact ⟨_, benBlockInput_header_short hp hn content⟩
    · obtain ⟨p, hh⟩ := exists_headerPayload hn
      exact ⟨_, benBlockInput_header_full hp hn.ge hh content⟩
  · exact ⟨_, benBlockInput_payload hp content⟩

theorem ben32Input_next (content : List Run → Except ErrorCode Plan)
    (hp : s.pos = .start ∨ ∃ part runs, s.pos = .words part runs ∧ part.length ≤ 4) :
    ∃ t, ben32Input content s = .next t := by
  rcases hp with hp | ⟨part, runs, hp, hn⟩
  · exact ⟨_, ben32Input_start hp content⟩
  · rcases hn.lt_or_eq with hn | hn
    · exact ⟨_, ben32Input_words_short hp hn content⟩
    · match part, hn with
      | [a, b, c, d], _ =>
        by_cases hz : wordOf a b c d = 0
        · cases hc : ben32Check s.latch.strict s.params.runBufDepth runs with
          | some e => exact ⟨_, ben32Input_refuse hp hz hc content⟩
          | none => exact ⟨_, ben32Input_conclude hp hz hc content⟩
        · exact ⟨_, ben32Input_word hp hz content⟩

end

/-! ### The input phase of every command -/

theorem exec_start_next {i : Instr} {s : State} (he : s.eng = .busyInput) (hp : s.pos = .start) :
    ∃ t, exec i s = .next t := by
  have hstep : ∀ input : State → Result, (∃ t, input s = .next t) → ∃ t, runCommand input s = .next t :=
    fun input h => by rwa [runCommand_of_input he]
  cases i with
  | nop | encMagic => exact hstep _ ⟨_, emptyInput_start hp _⟩
  | chkMagic | copyMagic | rleEnc | rleDec | width | pack | encBlock | runsToBen32 | encBen32 =>
    exact hstep _ (countedInput_next _ _ _ _ (.inl hp))
  | unpack => exact hstep _ (payloadInput_next _ (.inl hp))
  | decBlock | blockToBen32 => exact hstep _ (benBlockInput_next _ (.inl hp))
  | ben32ToRuns | ben32ToBlock => exact hstep _ (ben32Input_next _ (.inl hp))

theorem exec_next_of_inputFits {i : Instr} {s : State} (he : s.eng = .busyInput) (h : InputFits i s) :
    ∃ t, exec i s = .next t := by
  cases hp : s.pos with
  | start => exact exec_start_next he hp
  | bytes got =>
    obtain ⟨hi, -⟩ := (inputFits_bytes_iff hp).1 h
    obtain ⟨operands, content, hx⟩ := exec_counted he hi
    exact hx ▸ countedInput_next _ _ _ _ (.inr ⟨got, hp⟩)
  | header got =>
    obtain ⟨hi, hn, -⟩ := (inputFits_header_iff hp).1 h
    obtain ⟨content, hx⟩ := exec_benBlock he hi
    exact hx ▸ benBlockInput_next _ (.inr (.inl ⟨got, hp, hn⟩))
  | payload p =>
    obtain ⟨hi | rfl, -⟩ := (inputFits_payload_iff hp).1 h
    · obtain ⟨content, hx⟩ := exec_benBlock he hi
      exact hx ▸ benBlockInput_next _ (.inr (.inr ⟨p, hp⟩))
    · exact exec_unpack he ▸ payloadInput_next _ (.inr ⟨p, hp⟩)
  | words part runs =>
    obtain ⟨hi, hn, -⟩ := (inputFits_words_iff hp).1 h
    obtain ⟨content, hx⟩ := exec_ben32 he hi
    exact hx ▸ ben32Input_next _ (.inr ⟨part, runs, hp, hn⟩)
  | none | writing o => simp [InputFits, hp] at h

/-! ### The step -/

theorem exec_next_of_posFits {i : Instr} {s : State} (h : PosFits s) (hb : s.eng.busy = true) (hf : s.fetch = .ok i) :
    ∃ t, exec i s = .next t := by
  cases he : s.eng with
  | busyInput => exact exec_next_of_inputFits he ((posFits_input_iff he hf).1 h)
  | busyOutput =>
    cases hp : s.pos with
    | writing o => exact ⟨_, exec_of_writing i he hp⟩
    | _ => simp [PosFits, he, hp] at h
  | idle | error =>
    rw [he] at hb
    cases hb

theorem engineTurn_next {s : State} (h : PosFits s) : ∃ t, engineTurn s = .next t := by
  rcases engineTurn_cases s with ⟨-, hs⟩ | ⟨-, r, -, hs⟩ | ⟨hb, i, hf, hs⟩
  · exact ⟨_, hs⟩
  · exact ⟨_, hs⟩
  · exact hs ▸ exec_next_of_posFits h hb hf

/-- Settles O54: under the invariant the engine's position is one that its command has, and a host access without a
problem is a step. -/
theorem noFaultUnderTheInvariant : Obligations.NoFaultUnderTheInvariant := by
  intro s h
  obtain ⟨-, -, -, -, hpos⟩ := (inv_iff s).1 h
  rcases step_cases s with ⟨-, hs⟩ | ⟨ts, -, hs⟩ | ⟨a, ts, hturn, hs⟩ | ⟨ts, -, hs⟩
  · exact .inl (hs ▸ engineTurn_next hpos)
  · exact .inl (hs ▸ engineTurn_next (s := s.setTurns ts) hpos)
  · rcases hostTurn_cases (s.setTurns ts) a with ⟨why, hp, hx⟩ | ⟨addr, n, -, -, hx⟩ | ⟨addr, n, v, -, -, hx⟩
    · exact .inr ⟨a, ts, why, hturn, hp, hs.trans hx⟩
    · exact .inl ⟨_, hs.trans hx⟩
    · exact .inl ⟨_, hs.trans hx⟩
  · exact .inl ⟨_, hs⟩

end Sys2Proof.Machine

/-! ## A push and an engine step commute (60_exceptions.md R274, 20_memory.md R73) -/

namespace Sys2Proof.Machine

open Sys2Proof

/-- A byte at the end of IN (R134). -/
def State.pushIn (s : State) (b : Byte) : State := s.setIn (s.inq ++ [b])

/-- An IN_DATA write is a push in `s` (R134): the engine is not in ERROR, the input is not over, and IN has room. -/
def TakesPush (s : State) : Prop := s.eng ≠ .error ∧ s.inEof = false ∧ s.inq.length < s.params.inDepth

theorem writeInData_of_takesPush {s : State} (h : TakesPush s) (v : Word) :
    s.writeInData v = s.pushIn (v.setWidth 8) := by
  obtain ⟨he, heof, hroom⟩ := h
  rw [writeInData_of_ne_error he, if_neg (by simp [heof, hroom.ne])]
  rfl

/-! ### The shared operations of the input phase -/

/-- R273, R134: error entry flushes IN, and in ERROR a push is dropped. -/
theorem raise_pushIn (s : State) (v : Word) (e : ErrorCode) :
    (s.pushIn (v.setWidth 8)).raise e = (s.raise e).writeInData v := by
  rw [writeInData_of_error rfl]
  rfl

section

variable {s : State} (h : TakesPush s) (v : Word)

include h

/-- Where a byte is taken, the pushed byte stays behind it. -/
theorem inRead_pushIn (hne : s.inq ≠ []) {onByte : Byte → State → State}
    (hpush : ∀ b t c, onByte b (t.pushIn c) = (onByte b t).pushIn c)
    (hkeep : ∀ b t, TakesPush t → TakesPush (onByte b t)) (onEof : State → State) :
    (s.pushIn (v.setWidth 8)).inRead onByte onEof = (s.inRead onByte onEof).writeInData v := by
  obtain ⟨he, heof, hroom⟩ := h
  obtain ⟨b, rest, hq⟩ := List.exists_cons_of_ne_nil hne
  have hq' : (s.pushIn (v.setWidth 8)).inq = b :: (rest ++ [v.setWidth 8]) := by
    rw [State.pushIn, State.setIn_inq, hq, List.cons_append]
  have htail : TakesPush (s.setIn rest) := by
    rw [hq, List.length_cons] at hroom
    exact ⟨he, heof, (Nat.lt_succ_self _).trans hroom⟩
  rw [inRead_cons hq, inRead_cons hq', writeInData_of_takesPush (hkeep b _ htail), ← hpush]
  rfl

theorem inRead_setPos_pushIn (hne : s.inq ≠ []) (f : Byte → Pos) (onEof : State → State) :
    (s.pushIn (v.setWidth 8)).inRead (fun b t => t.setPos (f b)) onEof =
      (s.inRead (fun b t => t.setPos (f b)) onEof).writeInData v :=
  inRead_pushIn (onByte := fun b t => t.setPos (f b)) h v hne (fun _ _ _ => rfl) (fun _ _ ht => ht) onEof

theorem setPos_pushIn (p : Pos) : (s.pushIn (v.setWidth 8)).setPos p = (s.setPos p).writeInData v := by
  rw [writeInData_of_takesPush (s := s.setPos p) h]
  rfl

theorem atEnd_pushIn (hne : s.inq ≠ []) (p : Pos) (onEnd : State → State) :
    (s.pushIn (v.setWidth 8)).atEnd (fun t => t.setPos p) onEnd =
      (s.atEnd (fun t => t.setPos p) onEnd).writeInData v := by
  have hne' : (s.pushIn (v.setWidth 8)).inq ≠ [] := List.append_ne_nil_of_left_ne_nil hne _
  rw [atEnd_more hne, atEnd_more hne', setPos_pushIn h]

theorem enterOutput_pushIn (p : Plan) :
    (s.pushIn (v.setWidth 8)).enterOutput p = (s.enterOutput p).writeInData v := by
  rw [writeInData_of_takesPush (s := s.enterOutput p) ⟨nofun, h.2⟩]
  rfl

theorem conclude_pushIn (r : Except ErrorCode Plan) :
    (s.pushIn (v.setWidth 8)).conclude r = (s.conclude r).writeInData v := by
  cases r with
  | error e => exact raise_pushIn s v e
  | ok p => exact enterOutput_pushIn h v p

theorem payloadStep_pushIn (hne : s.inq ≠ []) (content : Payload → List Run → Except ErrorCode Plan) (p : Payload) :
    payloadStep content (s.pushIn (v.setWidth 8)) p = (payloadStep content s p).writeInData v := by
  rcases payloadStep_cases content s p with ⟨hl, -⟩ | ⟨hl, ⟨e, hu, hs⟩ | ⟨runs, hu, hd, hs⟩ | ⟨runs, hu, hd, hs⟩⟩
  · rw [payloadStep_short hl, payloadStep_short hl]
    exact inRead_pushIn (onByte := fun b t => t.payloadByte p b) h v hne (fun _ _ _ => rfl) (fun _ _ ht => ht) _
  · rw [hs, payloadStep_error (s := s.pushIn (v.setWidth 8)) hl hu, raise_pushIn]
  · rw [hs, payloadStep_full (s := s.pushIn (v.setWidth 8)) hl hu hd, raise_pushIn]
  · rw [hs, payloadStep_done (s := s.pushIn (v.setWidth 8)) hl hu hd, conclude_pushIn h]

/-! ### The input phases -/

variable {t : State}

theorem emptyInput_pushIn {plan : Plan} (hx : emptyInput plan s = .next t) :
    emptyInput plan (s.pushIn (v.setWidth 8)) = .next (t.writeInData v) := by
  obtain ⟨hp, rfl⟩ := emptyInput_cases hx
  rw [emptyInput_start (s := s.pushIn (v.setWidth 8)) hp, enterOutput_pushIn h]

theorem countedInput_pushIn (hne : s.inq ≠ []) {operands : Option ErrorCode} {n : Nat} {short : ErrorCode}
    {content : List Byte → Except ErrorCode Plan} (hx : countedInput operands n short content s = .next t) :
    countedInput operands n short content (s.pushIn (v.setWidth 8)) = .next (t.writeInData v) := by
  rcases countedInput_cases hx with ⟨hp, e, he, rfl⟩ | ⟨hp, rfl, rfl⟩ | ⟨got, hp, hn, rfl⟩ | ⟨got, hp, hn, rfl⟩
  · rw [countedInput_refuse (s := s.pushIn (v.setWidth 8)) hp he, ← raise_pushIn]
    rfl
  · rw [countedInput_start (s := s.pushIn (v.setWidth 8)) hp, setPos_pushIn h]
  · rw [countedInput_short (s := s.pushIn (v.setWidth 8)) hp hn, inRead_setPos_pushIn h v hne]
  · rw [countedInput_full (s := s.pushIn (v.setWidth 8)) hp hn, conclude_pushIn h]

theorem payloadInput_pushIn (hne : s.inq ≠ []) {content : Payload → List Run → Except ErrorCode Plan}
    (hx : payloadInput content s = .next t) :
    payloadInput content (s.pushIn (v.setWidth 8)) = .next (t.writeInData v) := by
  rcases payloadInput_cases hx with ⟨hp, hw, rfl⟩ | ⟨hp, hw, rfl⟩ | ⟨p, hp, rfl⟩
  · rw [payloadInput_refuse (s := s.pushIn (v.setWidth 8)) hp hw, ← raise_pushIn]
    rfl
  · rw [payloadInput_start (s := s.pushIn (v.setWidth 8)) hp hw, ← setPos_pushIn h]
    rfl
  · rw [payloadInput_payload (s := s.pushIn (v.setWidth 8)) hp, payloadStep_pushIn h v hne]

theorem benBlockInput_pushIn (hne : s.inq ≠ []) {content : Payload → List Run → Except ErrorCode Plan}
    (hx : benBlockInput content s = .next t) :
    benBlockInput content (s.pushIn (v.setWidth 8)) = .next (t.writeInData v) := by
  rcases benBlockInput_cases hx with ⟨hp, rfl⟩ | ⟨got, hp, hn, rfl⟩ | ⟨got, p, hp, hn, hh, rfl⟩ | ⟨p, hp, rfl⟩
  · rw [benBlockInput_start (s := s.pushIn (v.setWidth 8)) hp, atEnd_pushIn h v hne]
  · rw [benBlockInput_header_short (s := s.pushIn (v.setWidth 8)) hp hn, inRead_setPos_pushIn h v hne]
  · rw [benBlockInput_header_full (s := s.pushIn (v.setWidth 8)) hp hn hh, setPos_pushIn h]
  · rw [benBlockInput_payload (s := s.pushIn (v.setWidth 8)) hp, payloadStep_pushIn h v hne]

theorem ben32Input_pushIn (hne : s.inq ≠ []) {content : List Run → Except ErrorCode Plan}
    (hx : ben32Input content s = .next t) :
    ben32Input content (s.pushIn (v.setWidth 8)) = .next (t.writeInData v) := by
  rcases ben32Input_cases hx with ⟨hp, rfl⟩ | ⟨part, runs, hp, hn, rfl⟩ | ⟨a, b, c, d, runs, hp, hz, rfl⟩ |
    ⟨a, b, c, d, runs, e, hp, hz, hc, rfl⟩ | ⟨a, b, c, d, runs, hp, hz, hc, rfl⟩
  · rw [ben32Input_start (s := s.pushIn (v.setWidth 8)) hp, atEnd_pushIn h v hne]
  · rw [ben32Input_words_short (s := s.pushIn (v.setWidth 8)) hp hn, inRead_setPos_pushIn h v hne]
  · rw [ben32Input_word (s := s.pushIn (v.setWidth 8)) hp hz, setPos_pushIn h]
  · rw [ben32Input_refuse (s := s.pushIn (v.setWidth 8)) hp hz hc, raise_pushIn]
  · rw [ben32Input_conclude (s := s.pushIn (v.setWidth 8)) hp hz hc, conclude_pushIn h]

end

/-! ### The output phase, which leaves IN alone (R126) -/

theorem outWrite_pushIn (s : State) (b c : Byte) {next : State → State}
    (hnext : ∀ t : State, next (t.pushIn c) = (next t).pushIn c) :
    (s.pushIn c).outWrite b next = (s.outWrite b next).pushIn c := by
  rcases outWrite_cases s b next with ⟨hr, hs⟩ | ⟨hr, hs⟩ <;> rw [hs]
  · exact (outWrite_room (s := s.pushIn c) hr b next).trans (hnext (s.putOut b))
  · exact outWrite_full (s := s.pushIn c) hr b next

theorem writeStep_pushIn (s : State) (o : Output) (c : Byte) :
    (s.pushIn c).writeStep o = (s.writeStep o).pushIn c := by
  rcases writeStep_cases s o with ⟨h8, hs⟩ | ⟨h8, ⟨b, rest, hi, hs⟩ | ⟨x, w, rest, hi, hs⟩ | ⟨rest, hi, h0, hs⟩ |
    ⟨rest, hi, h0, hs⟩ | ⟨r, hi, hr, hs⟩ | ⟨hi, hr, hc, hs⟩ | ⟨hi, hr, hc, hs⟩⟩ <;> rw [hs]
  · rw [writeStep_emit (s := s.pushIn c) h8]
    exact outWrite_pushIn s _ c fun _ => rfl
  · rw [writeStep_byte (s := s.pushIn c) h8 hi]
    exact outWrite_pushIn s _ c fun _ => rfl
  · exact writeStep_push (s := s.pushIn c) h8 hi
  · exact writeStep_flush_empty (s := s.pushIn c) h0 hi
  · rw [writeStep_flush (s := s.pushIn c) h8 h0 hi]
    exact outWrite_pushIn s _ c fun _ => rfl
  · exact writeStep_run (s := s.pushIn c) h8 hi hr
  · exact writeStep_close (s := s.pushIn c) h8 hi (List.getElem?_eq_none_iff.1 hr) hc
  · exact writeStep_complete (s := s.pushIn c) h8 hi (List.getElem?_eq_none_iff.1 hr) hc

theorem TakesPush.writeStep {s : State} (h : TakesPush s) (he : s.eng = .busyOutput) (o : Output) :
    TakesPush (s.writeStep o) := by
  obtain ⟨-, heof, hroom⟩ := h
  obtain ⟨hinq, hinEof, hne, -⟩ := writeStep_frame he o
  obtain ⟨-, -, -, -, -, hparams, -⟩ := SameControl.writeStep s o
  exact ⟨hne, hinEof.trans heof, by rwa [hinq, hparams]⟩

/-! ### Every command -/

theorem runCommand_pushIn {input : State → Result} {s t : State} (h : TakesPush s) (v : Word)
    (hinput : input s = .next t → input (s.pushIn (v.setWidth 8)) = .next (t.writeInData v))
    (hx : runCommand input s = .next t) :
    runCommand input (s.pushIn (v.setWidth 8)) = .next (t.writeInData v) := by
  rcases runCommand_cases hx with ⟨hi | he, rfl⟩ | ⟨he, hx⟩ | ⟨he, o, hp, rfl⟩
  · rw [writeInData_of_takesPush h]
    simp only [runCommand, State.pushIn, State.setIn_eng, hi]
  · exact absurd he h.1
  · rw [runCommand_of_input (s := s.pushIn (v.setWidth 8)) he]
    exact hinput hx
  · rw [runCommand_of_writing (s := s.pushIn (v.setWidth 8)) he hp, writeStep_pushIn,
      writeInData_of_takesPush (h.writeStep he o)]

theorem exec_pushIn {i : Instr} {s t : State} (h : TakesPush s) (hne : s.inq ≠ []) (v : Word)
    (hx : exec i s = .next t) : exec i (s.pushIn (v.setWidth 8)) = .next (t.writeInData v) := by
  cases i with
  | nop | encMagic => exact runCommand_pushIn h v (emptyInput_pushIn h v) hx
  | chkMagic | copyMagic | rleEnc | rleDec | width | pack | encBlock | runsToBen32 | encBen32 =>
    exact runCommand_pushIn h v (countedInput_pushIn h v hne) hx
  | unpack => exact runCommand_pushIn h v (payloadInput_pushIn h v hne) hx
  | decBlock | blockToBen32 => exact runCommand_pushIn h v (benBlockInput_pushIn h v hne) hx
  | ben32ToRuns | ben32ToBlock => exact runCommand_pushIn h v (ben32Input_pushIn h v hne) hx

/-- In ERROR the engine takes no step (R276). -/
theorem exec_of_error {i : Instr} {s : State} (he : s.eng = .error) : exec i s = .next s := by
  obtain ⟨input, hi⟩ := exec_eq_runCommand i s
  simp only [hi, runCommand, he]

/-- Settles O25: an engine step looks at IN only at its head, and the push is at its end; in ERROR neither does
anything. -/
theorem pushCommutesWithEngineStep : Obligations.PushCommutesWithEngineStep := by
  intro i s t v hne hroom heof hx
  by_cases he : s.eng = .error
  · rw [exec_of_error he] at hx
    cases hx
    rw [writeInData_of_error he, exec_of_error he]
  · have h : TakesPush s := ⟨he, heof, hroom⟩
    rw [writeInData_of_takesPush h]
    exact exec_pushIn h hne v hx

end Sys2Proof.Machine

/-! ## Input that ends too early (60_exceptions.md R263, R264) -/

namespace Sys2Proof.Machine

open Sys2Proof

/-! ### Commands with a fixed amount of input -/

section

variable {i : Instr} {s : State}

/-- With its operand checks passed, a counted command reads its input and then checks it. -/
theorem exists_readsThenChecks (he : s.eng = .busyInput) (hi : readsCounted i = true) (hops : operandsPass i s = true) :
    ∃ content, ReadsThenChecks i s (inputBytes i s.latch) (shortError i) content := by
  cases i with
  | chkMagic => exact ⟨_, readsThenChecks_chkMagic he⟩
  | copyMagic => exact ⟨_, readsThenChecks_copyMagic he⟩
  | rleEnc => exact ⟨_, readsThenChecks_rleEnc he⟩
  | rleDec => exact ⟨_, readsThenChecks_rleDec he ((operandsPass_rleDec_iff s).1 hops)⟩
  | width => exact ⟨_, readsThenChecks_width he⟩
  | pack =>
    obtain ⟨hcount, hw⟩ := (operandsPass_pack_iff s).1 hops
    exact ⟨_, readsThenChecks_pack he hw hcount⟩
  | encBlock => exact ⟨_, readsThenChecks_encBlock he⟩
  | runsToBen32 => exact ⟨_, readsThenChecks_runsToBen32 he ((operandsPass_runsToBen32_iff s).1 hops)⟩
  | encBen32 => exact ⟨_, readsThenChecks_encBen32 he⟩
  | _ => cases hi

variable {n : Nat} {short : ErrorCode} {content : List Byte → Except ErrorCode Plan}

theorem ReadsThenChecks.exec_short (hx : ReadsThenChecks i s n short content) (heof : s.inEof = true)
    {got : List Byte} (h : got.length < n) : exec i (s.reading [] got) = .next (failedState s short) := by
  rw [State.reading, hx, countedInput_short rfl h,
    inRead_eof (s := (s.setIn []).setPos (.bytes got)) rfl heof]
  rfl

theorem ReadsThenChecks.reaches_short (hx : ReadsThenChecks i s n short content) (hp : s.pos = .start)
    (heof : s.inEof = true) (hn : s.inq.length < n) : ExecReaches i s (failedState s short) := by
  have hread := hx.reaches_reading [] s.inq [] hn.le
  rw [List.append_nil] at hread
  exact .head (hx.exec_start hp) (hread.trans (.head (hx.exec_short heof hn) (.refl _)))

end

/-! ### Payloads, BEN blocks and ben32 blocks -/

section

variable {i : Instr} {s : State} {content : Payload → List Run → Except ErrorCode Plan}

/-- A payload whose bytes end before its length is cut short. -/
theorem ReadsPayload.reaches_short (hx : ReadsPayload i s content) (heof : s.inEof = true) (vb lb : Byte) {bl : Word}
    {P : List Byte} (hP : P.length < bl.toNat) :
    ExecReaches i (s.unpacking P (unpackBytes vb lb bl [])) (failedState s .truncatedStream) := by
  obtain ⟨-, -, -, hleft⟩ := unpackBytes_frame vb lb bl P
  have hread := hx.reaches_unpacking vb lb hP.le []
  rw [List.append_nil] at hread
  have hcut : exec i (s.unpacking [] (unpackBytes vb lb bl P)) = .next (failedState s .truncatedStream) := by
    rw [hx, payloadStep_short (by omega), inRead_eof (s := s.unpacking [] (unpackBytes vb lb bl P)) rfl heof]
    rfl
  exact hread.trans (.head hcut (.refl _))

theorem exists_readsBenBlock (hi : readsBenBlock i = true) : ∃ content, ReadsBenBlock i content := by
  cases i with
  | decBlock => exact ⟨_, readsBenBlock_decBlock⟩
  | blockToBen32 => exact ⟨_, readsBenBlock_blockToBen32⟩
  | _ => cases hi

/-- A BEN block cut inside its header. -/
theorem ReadsBenBlock.reaches_short (hx : ReadsBenBlock i content) (hs : Accepted s) (heof : s.inEof = true)
    (hne : s.inq ≠ []) (hn : s.inq.length < 6) : ExecReaches i s (failedState s .truncatedStream) := by
  obtain ⟨he, hp, -⟩ := hs
  have hread := hx.reaches_readingHeader he [] s.inq [] hn.le
  rw [List.append_nil, List.nil_append] at hread
  have hcut : exec i (s.readingHeader [] s.inq) = .next (failedState s .truncatedStream) := by
    rw [hx (s.readingHeader [] s.inq) he, benBlockInput_header_short rfl hn,
      inRead_eof (s := s.readingHeader [] s.inq) rfl heof]
    rfl
  exact .head (hx.exec_start he hp hne) (hread.trans (.head hcut (.refl _)))

theorem exists_readsBen32 (hi : readsBen32 i = true) : ∃ content, ReadsBen32 i content := by
  cases i with
  | ben32ToRuns => exact ⟨_, readsBen32_ben32ToRuns⟩
  | ben32ToBlock => exact ⟨_, readsBen32_ben32ToBlock⟩
  | _ => cases hi

/-- A ben32 block cut inside a word, or between two words before its sentinel. -/
theorem ReadsBen32.reaches_short {content : List Run → Except ErrorCode Plan} (hx : ReadsBen32 i content)
    (hs : Accepted s) (heof : s.inEof = true) (hne : s.inq ≠ []) {runs : List Run} {part : List Byte}
    (hq : s.inq = runs.flatMap recBytes ++ part) (hn : part.length < 4) (hrec : ∀ r ∈ runs, recBytes r ≠ sentinel) :
    ExecReaches i s (failedState s .truncatedStream) := by
  obtain ⟨he, hp, -⟩ := hs
  have hstart := hx.exec_start he hp hne
  rw [hq] at hstart
  have hrecords := hx.reaches_records he part hrec []
  have hword := hx.reaches_readingWord he [] runs part [] hn.le
  rw [List.append_nil, List.nil_append] at hword
  have hcut : exec i (s.readingWord [] part runs) = .next (failedState s .truncatedStream) := by
    rw [hx (s.readingWord [] part runs) he, ben32Input_words_short rfl hn,
      inRead_eof (s := s.readingWord [] part runs) rfl heof]
    rfl
  exact .head hstart (hrecords.trans (hword.trans (.head hcut (.refl _))))

end

/-- Settles O43: the bytes in IN are all read, and the next `InRead()` sees the end of the input. -/
theorem shortInputRaises : Obligations.ShortInputRaises := by
  rintro i s hs heof hops (⟨hi, hn⟩ | ⟨rfl, hn⟩)
  · obtain ⟨content, hx⟩ := exists_readsThenChecks hs.1 hi hops
    exact (hx.reaches_short hs.2.1 heof hn).exists_execSteps
  · have hw : widthsLegal s.latch.vb.toNat s.latch.lb.toNat = true := by simpa [operandsPass] using hops
    exact (ExecReaches.head (exec_unpack_start hs hw)
      ((readsPayload_unpack hs.1).reaches_short heof _ _ hn)).exists_execSteps

/-- Settles O44. -/
theorem cutBlockRaisesTruncatedStream : Obligations.CutBlockRaisesTruncatedStream := by
  refine ⟨fun i s hi hs heof hne hcut => ?_, fun i s runs part hi hs heof hne hq hn hrec => ?_⟩
  · obtain ⟨content, hx⟩ := exists_readsBenBlock hi
    rcases hcut with hn | ⟨vb, lb, bl, P, hq, hP⟩
    · exact (hx.reaches_short hs heof hne hn).exists_execSteps
    · exact ((hx.reaches_payload hs hq).trans
        ((hx.readsPayload hs.1).reaches_short heof vb lb hP)).exists_execSteps
  · obtain ⟨content, hx⟩ := exists_readsBen32 hi
    exact (hx.reaches_short hs heof hne hq hn hrec).exists_execSteps

end Sys2Proof.Machine

/-! ## The first failing check decides the code (60_exceptions.md R274, R275) -/

namespace Sys2Proof.Machine

open Sys2Proof

/-! ### Lists of checks -/

/-- `raised e` holds for the code `e` of the first check that fails. -/
def RaisesFirst (checks : List (Bool × ErrorCode)) (raised : ErrorCode → Prop) : Prop :=
  ∀ e, firstError checks = some e → raised e

section

variable {checks : List (Bool × ErrorCode)} {raised : ErrorCode → Prop} {fails : Bool} {e : ErrorCode}

theorem RaisesFirst.nil : RaisesFirst [] raised := nofun

theorem RaisesFirst.cons (hfail : fails = true → raised e) (hpass : fails = false → RaisesFirst checks raised) :
    RaisesFirst ((fails, e) :: checks) raised := by
  intro e' h
  cases hf : fails with
  | false => exact hpass hf e' (by simpa [firstError, hf] using h)
  | true =>
    obtain rfl : e = e' := by simpa [firstError, hf] using h
    exact hfail hf

theorem RaisesFirst.mono {raised' : ErrorCode → Prop} (h : RaisesFirst checks raised)
    (himp : ∀ e, raised e → raised' e) : RaisesFirst checks raised' :=
  fun e he => himp e (h e he)

theorem firstError_append (checks more : List (Bool × ErrorCode)) :
    firstError (checks ++ more) = (firstError checks).or (firstError more) := by
  induction checks with
  | nil => rfl
  | cons c checks ih =>
    obtain ⟨fails, e⟩ := c
    cases fails with
    | false => exact ih
    | true => rfl

theorem RaisesFirst.append {more : List (Bool × ErrorCode)} (h : RaisesFirst checks raised)
    (hmore : firstError checks = none → RaisesFirst more raised) : RaisesFirst (checks ++ more) raised := by
  intro e he
  rw [firstError_append] at he
  cases hc : firstError checks with
  | some e' =>
    obtain rfl : e' = e := by simpa [hc] using he
    exact h e' hc
  | none => exact hmore hc e (by simpa [hc] using he)

/-- A function that answers the code of its first check if that fails. -/
theorem RaisesFirst.ite {α : Type} {c : Prop} [Decidable c] {x : Except ErrorCode α} (hc : fails = true ↔ c)
    (hx : RaisesFirst checks fun e => x = .error e) :
    RaisesFirst ((fails, e) :: checks) fun e' => (if c then .error e else x) = .error e' :=
  .cons (fun hf => if_pos (hc.1 hf)) fun hf => hx.mono fun e' he' => by rw [if_neg (by simp [← hc, hf]), he']

end

/-- Engine steps of `i` lead from `s` into ERROR with the code `e`. -/
def FailsWith (i : Instr) (s : State) (e : ErrorCode) : Prop := ∃ n, execSteps i n s = .next (failedState s e)

theorem FailsWith.of_exec {i : Instr} {s : State} {e : ErrorCode} (h : exec i s = .next (failedState s e)) :
    FailsWith i s e :=
  (ExecReaches.head h (.refl _)).exists_execSteps

/-! ### The commands that read labels (R153, R155, R201, R234) -/

section

variable {depth : Nat} {xs : List Half}

theorem runsFromLabels_overflow (h : ((rleEncode xs).any fun r => decide (65535 < r.2)) = true) :
    runsFromLabels depth (xs.flatMap labelBytes) = .error .runOverflow := by
  simp only [runsFromLabels, labelsOf_flatMap, h, if_true]

theorem runsFromLabels_full (hshort : ((rleEncode xs).any fun r => decide (65535 < r.2)) = false)
    (h : depth < (rleEncode xs).length) : runsFromLabels depth (xs.flatMap labelBytes) = .error .runBufferFull := by
  simp only [runsFromLabels, labelsOf_flatMap, hshort, Bool.false_eq_true, if_false, if_pos h]

/-- The checks of R153, before those a command makes on the runs. -/
theorem runsFromLabels_raises {raised : ErrorCode → Prop} {checks : List (Bool × ErrorCode)}
    (hrefuse : ∀ e, runsFromLabels depth (xs.flatMap labelBytes) = .error e → raised e)
    (haccept : runsFromLabels depth (xs.flatMap labelBytes) = .ok (sampleRuns xs) → RaisesFirst checks raised) :
    RaisesFirst
      (((rleEncode xs).any fun r => decide (65535 < r.2), .runOverflow) ::
        (decide (depth < (rleEncode xs).length), .runBufferFull) :: checks) raised := by
  refine .cons (fun h => hrefuse _ (runsFromLabels_overflow h)) fun hshort => ?_
  refine .cons (fun h => hrefuse _ (runsFromLabels_full hshort (of_decide_eq_true h))) fun hdepth => ?_
  refine haccept (runsFromLabels_flatMap (fun r hr => ?_) (Nat.le_of_not_lt (of_decide_eq_false hdepth)))
  simpa using List.any_eq_false.1 hshort r hr

theorem encBlockContent_lengthOverflow (l : Latch)
    (hruns : runsFromLabels depth (xs.flatMap labelBytes) = .ok (sampleRuns xs))
    (h : maxWord < byteLen (rleEncode xs).length (widths (sampleRuns xs)).1 (widths (sampleRuns xs)).2) :
    encBlockContent l depth (xs.flatMap labelBytes) = .error .lengthOverflow := by
  have hlen : (sampleRuns xs).length = (rleEncode xs).length := List.length_map _
  simp only [encBlockContent, hruns, hlen, if_pos h]

end

/-- Settles O45: the three commands make the checks of R153 on their input, and ENC_BLOCK that of its length. -/
theorem labelCommandsCheckInOrder : Obligations.LabelCommandsCheckInOrder := by
  rintro i s xs rest e hi ⟨he, hp, -⟩ hcount hq herror
  have hn : (xs.flatMap labelBytes).length = s.latch.labelInput := by
    rw [flatMap_labelBytes_length, Latch.labelInput, hcount]
  revert e
  rcases hi with rfl | rfl | rfl
  · exact runsFromLabels_raises
      (fun e h => (readsThenChecks_rleEnc he).fails hp hq hn (by rw [rleEncContent, h]))
      fun _ => .cons nofun fun _ => .nil
  · refine runsFromLabels_raises
      (fun e h => (readsThenChecks_encBlock he).fails hp hq hn (by rw [encBlockContent, h]))
      fun hruns => .cons (fun h => ?_) fun _ => .nil
    exact (readsThenChecks_encBlock he).fails hp hq hn
      (encBlockContent_lengthOverflow s.latch hruns (of_decide_eq_true h))
  · exact runsFromLabels_raises
      (fun e h => (readsThenChecks_encBen32 he).fails hp hq hn (by rw [encBen32Content, h]))
      fun _ => .cons nofun fun _ => .nil

/-! ### The commands that read run records (R156, R182, R183, R232) -/

section

variable (l : Latch) (runs : List Run)

theorem rleDecContent_raises :
    RaisesFirst [(hasZeroLength runs, .zeroLengthRun), (decide (maxWord < totalLength runs), .countOverflow)]
      fun e => rleDecContent l (runs.flatMap recBytes) = .error e := by
  simp only [rleDecContent, recordsOf_flatMap]
  exact .ite .rfl (.ite decide_eq_true_iff .nil)

theorem runsToBen32Content_raises :
    RaisesFirst [(hasZeroLength runs, .zeroLengthRun)]
      fun e => runsToBen32Content l (runs.flatMap recBytes) = .error e := by
  simp only [runsToBen32Content, recordsOf_flatMap]
  exact .ite .rfl .nil

variable {l runs}

theorem widthContent_raises (hcount : l.count.toNat = runs.length) :
    RaisesFirst
      [ (hasZeroLength runs, .zeroLengthRun),
        (decide (maxWord < byteLen runs.length (widths runs).1 (widths runs).2), .lengthOverflow) ]
      fun e => widthContent l (runs.flatMap recBytes) = .error e := by
  simp only [widthContent, recordsOf_flatMap, hcount]
  exact .ite .rfl (.ite decide_eq_true_iff .nil)

theorem hasWideField_iff (vb lb : Nat) (runs : List Run) :
    (runs.any fun r => decide (2 ^ vb ≤ r.value.toNat ∨ 2 ^ lb ≤ r.length.toNat)) = true ↔
      hasWideField vb lb runs = true := by
  simp only [hasWideField, Bool.decide_or]

theorem packContent_raises (hcount : l.count.toNat = runs.length) :
    RaisesFirst
      [ (hasZeroLength runs, .zeroLengthRun),
        (runs.any fun r => decide (2 ^ l.vb.toNat ≤ r.value.toNat ∨ 2 ^ l.lb.toNat ≤ r.length.toNat), .fieldOverflow),
        (decide (maxWord < byteLen runs.length l.vb.toNat l.lb.toNat), .lengthOverflow) ]
      fun e => packContent l (runs.flatMap recBytes) = .error e := by
  simp only [packContent, recordsOf_flatMap, hcount]
  exact .ite .rfl (.ite (hasWideField_iff _ _ _) (.ite decide_eq_true_iff .nil))

end

theorem widthsLegal_of_decide {vb lb : Nat} (h : decide (vb < 1 ∨ 16 < vb ∨ lb < 1 ∨ 16 < lb) = false) :
    widthsLegal vb lb = true := by
  rw [← Bool.not_eq_false, widthsLegal_eq_false_iff]
  exact of_decide_eq_false h

/-- Settles O46: the operand checks are made at the start, the others on the whole input. -/
theorem recordCommandsCheckInOrder : Obligations.RecordCommandsCheckInOrder := by
  intro s runs rest e hs hcount hq tooMany zero vb lb
  have ⟨he, hp, _⟩ := hs
  have hn : (runs.flatMap recBytes).length = s.latch.recordInput := by
    rw [flatMap_recBytes_length, Latch.recordInput, hcount]
  have hfits : tooMany = false → s.latch.count.toNat ≤ s.params.runBufDepth := fun h =>
    Nat.le_of_not_lt (of_decide_eq_false h)
  refine ⟨?rleDec, ?width, ?pack, ?runsToBen32⟩ <;> revert e
  case rleDec =>
    refine RaisesFirst.cons (fun h => FailsWith.of_exec (exec_rleDec_refuse hs (of_decide_eq_true h))) fun h => ?_
    exact (rleDecContent_raises s.latch runs).mono fun _ => (readsThenChecks_rleDec he (hfits h)).fails hp hq hn
  case width => exact (widthContent_raises hcount).mono fun _ => (readsThenChecks_width he).fails hp hq hn
  case pack =>
    refine RaisesFirst.cons (fun h => ?_) fun h => ?_
    · have hw := (widthsLegal_eq_false_iff _ _).2 (of_decide_eq_true h)
      exact FailsWith.of_exec (exec_pack_refuse hs (checkPackOperands_of_illegal hw _))
    · have hw := widthsLegal_of_decide h
      refine .cons (fun h => ?_) fun h => ?_
      · exact FailsWith.of_exec (exec_pack_refuse hs (checkPackOperands_of_lt hw (of_decide_eq_true h)))
      · exact (packContent_raises hcount).mono fun _ => (readsThenChecks_pack he hw (hfits h)).fails hp hq hn
  case runsToBen32 =>
    refine RaisesFirst.cons (fun h => FailsWith.of_exec (exec_runsToBen32_refuse hs (of_decide_eq_true h))) fun h => ?_
    exact (runsToBen32Content_raises s.latch runs).mono fun _ =>
      (readsThenChecks_runsToBen32 he (hfits h)).fails hp hq hn

/-! ### A payload (R177, R178) -/

/-- The strict checks of R177 on the runs and the padding of a payload. -/
def strictChecks (strict : Bool) (runs : List Run) (padding : List Bool) (vb lb : Nat) : List (Bool × ErrorCode) :=
  [ (strict && padding.any id, .payloadError),
    (strict && decide (8 ≤ padding.length), .payloadError),
    (strict && !maximalRuns runs, .payloadError),
    (strict && decide (widths runs ≠ (vb, lb)), .widthError) ]

/-- The checks of R175, R177 and R270 on the payload `P`. -/
def payloadChecks (strict : Bool) (depth : Nat) (P : List Byte) (vb lb : Nat) : List (Bool × ErrorCode) :=
  (decide (vb < 1 ∨ 16 < vb ∨ lb < 1 ∨ 16 < lb), .widthError) ::
    (strictChecks strict (parsePairs P vb lb).1 (parsePairs P vb lb).2 vb lb ++
      [(decide (depth < (parsePairs P vb lb).1.length), .runBufferFull)])

theorem firstError_strictChecks (strict : Bool) (runs : List Run) (padding : List Bool) (vb lb : Nat) :
    firstError (strictChecks strict runs padding vb lb) =
      if strict then strictCheck runs vb lb padding.length (padding.any id) else none := by
  cases strict with
  | false => rfl
  | true => simp [strictChecks, strictCheck, firstError]

section

variable {P : List Byte} {vb lb : Nat} {strict : Bool}

theorem unpack_of_illegal (hw : widthsLegal vb lb = false) (P : List Byte) (strict : Bool) :
    unpack P vb lb strict = .error .widthError := if_pos hw

theorem unpack_of_strictChecks_some (hw : widthsLegal vb lb = true) {e : ErrorCode}
    (h : firstError (strictChecks strict (parsePairs P vb lb).1 (parsePairs P vb lb).2 vb lb) = some e) :
    unpack P vb lb strict = .error e := by
  rw [firstError_strictChecks] at h
  cases strict with
  | false => cases h
  | true =>
    rw [if_pos rfl] at h
    simp [unpack, hw, h]

theorem unpack_of_strictChecks_none (hw : widthsLegal vb lb = true)
    (h : firstError (strictChecks strict (parsePairs P vb lb).1 (parsePairs P vb lb).2 vb lb) = none) :
    unpack P vb lb strict = .ok (parsePairs P vb lb).1 := by
  rw [firstError_strictChecks] at h
  cases strict with
  | false => simp [unpack, hw]
  | true =>
    rw [if_pos rfl] at h
    simp [unpack, hw, h]

/-- The checks on a payload, before those a command makes on its runs: `unpack` refuses it, its runs do not fit the run
buffer, or both are passed. -/
theorem payloadChecks_raise {depth : Nat} {more : List (Bool × ErrorCode)} {raised : ErrorCode → Prop}
    (hrefuse : ∀ e, unpack P vb lb strict = .error e → raised e)
    (hfull : unpack P vb lb strict = .ok (parsePairs P vb lb).1 → depth < (parsePairs P vb lb).1.length →
      raised .runBufferFull)
    (haccept : unpack P vb lb strict = .ok (parsePairs P vb lb).1 → (parsePairs P vb lb).1.length ≤ depth →
      RaisesFirst more raised) :
    RaisesFirst (payloadChecks strict depth P vb lb ++ more) raised := by
  rw [payloadChecks, List.cons_append, List.append_assoc, List.singleton_append]
  refine .cons (fun h => ?_) fun h => ?_
  · exact hrefuse _ (unpack_of_illegal ((widthsLegal_eq_false_iff _ _).2 (of_decide_eq_true h)) P strict)
  · have hw := widthsLegal_of_decide h
    refine .append (fun e he => hrefuse e (unpack_of_strictChecks_some hw he)) fun hnone => ?_
    have hok := unpack_of_strictChecks_none hw hnone
    exact .cons (fun hd => hfull hok (of_decide_eq_true hd)) fun hd =>
      haccept hok (Nat.le_of_not_lt (of_decide_eq_false hd))

end

section

variable {i : Instr} {s : State} {content : Payload → List Run → Except ErrorCode Plan}

/-- A payload that is in IN whole raises the code of the first check it fails. -/
theorem ReadsPayload.raises (hx : ReadsPayload i s content) {vb lb : Byte} {bl : Word} {P : List Byte}
    (hP : bl.toNat = P.length) (rest : List Byte) {more : List (Bool × ErrorCode)}
    (hmore : ∀ p, RaisesFirst more fun e => content p (parsePairs P vb.toNat lb.toNat).1 = .error e) :
    RaisesFirst (payloadChecks s.latch.strict s.params.runBufDepth P vb.toNat lb.toNat ++ more)
      fun e => ExecReaches i (s.unpacking (P ++ rest) (unpackBytes vb lb bl [])) (failedState s e) := by
  obtain ⟨-, -, -, hleft⟩ := unpackBytes_frame vb lb bl P
  rw [hP, Nat.sub_self] at hleft
  have hend : ∀ e, payloadStep content (s.unpacking rest (unpackBytes vb lb bl P)) (unpackBytes vb lb bl P).1 =
      (s.unpacking rest (unpackBytes vb lb bl P)).raise e →
      ExecReaches i (s.unpacking (P ++ rest) (unpackBytes vb lb bl [])) (failedState s e) := fun e h =>
    (hx.reaches_unpacking vb lb hP.ge rest).trans (.head ((hx _ _).trans (congrArg _ h)) (.refl _))
  have hunpacked := unpacked_unpackBytes vb lb bl P s.latch.strict
  refine payloadChecks_raise (fun e hu => hend e ?_) (fun hu hd => hend _ ?_) fun hu hd =>
    (hmore (unpackBytes vb lb bl P).1).mono fun e hc => hend e ?_
  · exact payloadStep_error hleft (hunpacked.trans hu) content
  · exact payloadStep_full (s := s.unpacking rest (unpackBytes vb lb bl P)) hleft (hunpacked.trans hu) hd content
  · rw [payloadStep_done (s := s.unpacking rest (unpackBytes vb lb bl P)) hleft (hunpacked.trans hu) hd content, hc]
    rfl

/-- A BEN block that is in IN whole raises the code of the first check it fails (R202). -/
theorem ReadsBenBlock.raises (hx : ReadsBenBlock i content) (hs : Accepted s) {vb lb : Byte} {bl : Word}
    {P rest : List Byte} (hP : bl.toNat = P.length) (hq : s.inq = hdrBytes vb lb bl ++ P ++ rest)
    {more : List (Bool × ErrorCode)}
    (hmore : ∀ p, RaisesFirst more fun e => content p (parsePairs P vb.toNat lb.toNat).1 = .error e) :
    RaisesFirst (payloadChecks s.latch.strict s.params.runBufDepth P vb.toNat lb.toNat ++ more) (FailsWith i s) := by
  rw [List.append_assoc] at hq
  exact ((hx.readsPayload hs.1).raises hP rest hmore).mono fun e h =>
    ((hx.reaches_payload hs hq).trans h).exists_execSteps

end

/-- Settles O48: illegal widths are refused at the start, and the other checks are made on the whole payload. -/
theorem unpackChecksInOrder : Obligations.UnpackChecksInOrder := by
  intro s P rest e hs hP hq vb lb runs padding
  have hraises :
      RaisesFirst (payloadChecks s.latch.strict s.params.runBufDepth P vb lb ++ []) (FailsWith .unpack s) := by
    cases hw : widthsLegal vb lb with
    | false =>
      have hbad : decide (vb < 1 ∨ 16 < vb ∨ lb < 1 ∨ 16 < lb) = true :=
        decide_eq_true ((widthsLegal_eq_false_iff vb lb).1 hw)
      exact .cons (fun _ => .of_exec (exec_unpack_refuse hs hw)) fun h => nomatch hbad.symm.trans h
    | true =>
      have hstart := exec_unpack_start hs hw
      rw [hq] at hstart
      exact ((readsPayload_unpack hs.1).raises hP rest fun _ => .nil).mono fun e h =>
        (ExecReaches.head hstart h).exists_execSteps
  exact hraises e

/-- Settles O49: the block is read whole, and DEC_BLOCK counts its labels after the checks on the payload. -/
theorem benBlockChecksInOrder : Obligations.BenBlockChecksInOrder := by
  intro i s vbByte lbByte bl P rest e hi hs hP hq vb lb runs padding
  revert e
  rcases hi with rfl | rfl
  · exact readsBenBlock_decBlock.raises hs hP hq fun p => .ite decide_eq_true_iff .nil
  · exact readsBenBlock_blockToBen32.raises hs hP hq fun p => .cons nofun fun _ => .nil

/-! ### A ben32 block (R231) -/

/-- The checks of R231 on the runs of a ben32 block. -/
def ben32Checks (strict : Bool) (depth : Nat) (runs : List Run) : List (Bool × ErrorCode) :=
  [ (runs.any fun r => r.length == 0, .zeroLengthRun),
    (strict && !maximalRuns runs, .payloadError),
    (decide (depth < runs.length), .runBufferFull) ]

theorem ben32Check_eq_firstError (strict : Bool) (depth : Nat) (runs : List Run) :
    ben32Check strict depth runs = firstError (ben32Checks strict depth runs) := by
  simp only [ben32Check, ben32Checks, firstError, decide_eq_true_iff]

/-- A ben32 block that is in IN whole raises the code of the first check it fails. -/
theorem ReadsBen32.raises {i : Instr} {s : State} {content : List Run → Except ErrorCode Plan}
    (hx : ReadsBen32 i content) (hs : Accepted s) {runs : List Run} {rest : List Byte}
    (hq : s.inq = ben32Block runs ++ rest) (hrec : ∀ r ∈ runs, recBytes r ≠ sentinel)
    {more : List (Bool × ErrorCode)} (hmore : RaisesFirst more fun e => content runs = .error e) :
    RaisesFirst (ben32Checks s.latch.strict s.params.runBufDepth runs ++ more) (FailsWith i s) := by
  obtain ⟨he, hp, -⟩ := hs
  have hend : ∀ e, ben32Input content (s.readingWord rest sentinel runs) =
      .next ((s.readingWord rest sentinel runs).raise e) → FailsWith i s e := fun e h =>
    ((hx.reaches_sentinel he hp hq hrec).trans
      (.head ((hx (s.readingWord rest sentinel runs) he).trans h) (.refl _))).exists_execSteps
  have hzero : wordOf 0 0 0 0 = 0 := (wordOf_eq_zero_iff 0 0 0 0).2 rfl
  refine .append (fun e h => hend e ?_) fun h => hmore.mono fun e hc => hend e ?_
  · rw [← ben32Check_eq_firstError] at h
    exact ben32Input_refuse (s := s.readingWord rest sentinel runs) rfl hzero h content
  · rw [← ben32Check_eq_firstError] at h
    rw [ben32Input_sentinel (s := s.readingWord rest sentinel runs) rfl h, hc]
    rfl

/-- Settles O50: the block is read up to its sentinel, and BEN32_TO_BLOCK makes the check of its length last. -/
theorem ben32ChecksInOrder : Obligations.Ben32ChecksInOrder := by
  rintro i s runs rest e hi hs hq hrec
  revert e
  rcases hi with rfl | rfl
  · exact readsBen32_ben32ToRuns.raises hs hq hrec (.cons nofun fun _ => .nil)
  · exact readsBen32_ben32ToBlock.raises hs hq hrec (.ite decide_eq_true_iff .nil)

end Sys2Proof.Machine

/-! ## Reset (R290) -/

namespace Sys2Proof.Machine

open Sys2Proof

/-! ### What the host reads after reset -/

theorem readValue_ctrl_resetOf (p : Params) : (State.resetOf p).readValue .ctrl = 0x00000001 :=
  ctrlWord_eq_ofNat true false

theorem readValue_status_of_zero {s : State} (h : s.status = Status.zero) : s.readValue .status = 0x00000000 := by
  have hword : s.readValue .status = s.status.word := rfl
  rw [hword, h, Status.word_eq_ofNat]
  rfl

/-! ### The reset event -/

theorem step_of_reset_turn {s : State} {ts : List Turn} (h : s.turns = .reset :: ts) :
    step s = .next (s.setTurns ts).resetEvent := by
  simp [step, h]

/-- The reset event leaves the power-on state with the same parameters, and what stands outside the block as it was. -/
theorem resetEvent_setTurns_eq (s : State) (ts : List Turn) :
    (s.setTurns ts).resetEvent =
      { State.reset with params := s.params, turns := ts, reads := s.reads, freeCount := s.freeCount } := rfl

/-- The power-on state is one that the reset event leaves. -/
theorem resetEvent_resetOf (p : Params) : (State.resetOf p).resetEvent = State.resetOf p := rfl

/-- Settles O13: CTRL and STATUS are words of fields, and every other value is a field that `State.resetOf` writes. -/
theorem resetLeavesTheStatedValues : Obligations.ResetLeavesTheStatedValues := by
  refine ⟨⟨rfl, readValue_ctrl_resetOf _, rfl, readValue_status_of_zero rfl, rfl, rfl, rfl, rfl, rfl, rfl, rfl, rfl, rfl,
    rfl, rfl, rfl, rfl, rfl, rfl, rfl⟩, fun s ts hturn => ?_⟩
  rw [step_of_reset_turn hturn, resetEvent_setTurns_eq]

/-! ### The invariant at reset -/

theorem Params.wellFormed_iff (p : Params) :
    p.wellFormed = true ↔
      (1 ≤ p.inDepth ∧ p.inDepth < 2 ^ 32) ∧ (1 ≤ p.outDepth ∧ p.outDepth < 2 ^ 32) ∧
        1 ≤ p.runBufDepth ∧ p.runBufDepth < 2 ^ 32 := by
  simp [Params.wellFormed, and_assoc]

/-- A depth that is given as one less, below 2^32 − 1, is legal (R8). -/
theorem depth_legal_of_lessOne (d : Fin 4294967295) : 1 ≤ d.val + 1 ∧ d.val + 1 < 2 ^ 32 := by
  have hd := d.isLt
  omega

/-- R8: whatever values the platform fixes, they are legal. -/
theorem configParams_wellFormed : Config.params.wellFormed = true :=
  (Params.wellFormed_iff _).2
    ⟨depth_legal_of_lessOne _, depth_legal_of_lessOne _, depth_legal_of_lessOne _⟩

theorem engineFits_resetOf (p : Params) : EngineFits (State.resetOf p) :=
  resetEvent_resetOf p ▸ engineFits_resetEvent (State.resetOf p)

theorem inv_resetOf {p : Params} (hp : p.wellFormed = true) : Inv (State.resetOf p) :=
  (inv_iff _).2 ⟨hp, statusAgrees_of_zero rfl rfl, engineFits_resetOf p⟩

/-- Settles O53: the power-on state is `State.resetOf` of this platform's parameters, which are legal. -/
theorem resetMeetsTheInvariant : Obligations.ResetMeetsTheInvariant :=
  ⟨inv_resetOf configParams_wellFormed, fun _ => inv_resetOf⟩

end Sys2Proof.Machine
